-- ==== Sys2Proof/Word.lean ====
section
/-! DEFINITION. The word types of kasumi_feistel_core (00_scope.md R6, R8, R9): every value of the hardware is an
unsigned bit vector of a fixed width, and a command is a 32-bit command word with a 128-bit data word. -/

namespace Sys2Proof

/-- A subkey word, and each half of an FO or FL operand: 16 bits (00_scope.md R6). -/
abbrev Word := BitVec 16

/-- The operand and result of FO and FL, and each half of a block: 32 bits (00_scope.md R6). -/
abbrev Half := BitVec 32

/-- A block: 64 bits (00_scope.md R6). -/
abbrev Block := BitVec 64

/-- A key: 128 bits (00_scope.md R6). -/
abbrev Key := BitVec 128

/-- The SLOT field: an unsigned 4-bit slot number (30_encoding.md R49). -/
abbrev SlotNo := BitVec 4

/-- The RIDX field and every subkey index: 0..7 (30_encoding.md R49). Addition wraps, which is the `mod 8` of
41_key_schedule.md R59. -/
abbrev RIdx := BitVec 3

/-- One command as the command port carries it: `cmd_word` and `cmd_data`, transferred together (30_encoding.md R46). -/
structure Command where
  /-- `cmd_word[31:0]`. -/
  word : BitVec 32
  /-- `cmd_data[127:0]`. -/
  data : BitVec 128
  deriving DecidableEq, Repr

end Sys2Proof
end

