-- ==== Sys2Proof/Machine/Bits.lean ====
section
/-! DEFINITION. Bit helpers of the pseudocode (00_scope.md R8, R9): the 16-bit rotation and the halves of a value. -/

namespace Sys2Proof.Machine

/-- `rol16(v, r) = ((v << r) | (v >> (16 - r)))[15:0]` (41_key_schedule.md R55). -/
def rol16 (v : Word) (r : Nat) : Word :=
  (v <<< r) ||| (v >>> (16 - r))

/-- `x[31:16]`, the `l` of FO and FL (43_fo_fl.md R70, R72). -/
def highWord (x : Half) : Word :=
  x.extractLsb' 16 16

/-- `x[15:0]`, the `r` of FO and FL (43_fo_fl.md R70, R72). -/
def lowWord (x : Half) : Word :=
  x.extractLsb' 0 16

/-- `blk[63:32]`, the left half of a block (20_memory.md R35). -/
def leftHalf (blk : Block) : Half :=
  blk.extractLsb' 32 32

/-- `blk[31:0]`, the right half of a block (20_memory.md R35). -/
def rightHalf (blk : Block) : Half :=
  blk.extractLsb' 0 32

end Sys2Proof.Machine
end

