-- ==== Sys2Proof/Machine/Operands.lean ====
section
/-! DEFINITION. Where every operand sits on the command port: the fields of cmd_word (30_encoding.md R47) and of cmd_data
(20_memory.md R34, R35, R36). Bits of cmd_data that no function here reads are ignored (30_encoding.md R49). -/

namespace Sys2Proof.Machine

/-- OP, `cmd_word[3:0]` (30_encoding.md R47). -/
def opField (w : BitVec 32) : BitVec 4 :=
  w.extractLsb' 0 4

/-- SLOT, `cmd_word[7:4]` (30_encoding.md R47). -/
def slotField (w : BitVec 32) : SlotNo :=
  w.extractLsb' 4 4

/-- RIDX, `cmd_word[10:8]` (30_encoding.md R47). -/
def ridxField (w : BitVec 32) : RIdx :=
  w.extractLsb' 8 3

/-- CLR, `cmd_word[11]` (30_encoding.md R47). -/
def clrField (w : BitVec 32) : Bool :=
  w.getLsbD 11

/-- RSVD, `cmd_word[31:12]` (30_encoding.md R47). -/
def rsvdField (w : BitVec 32) : BitVec 20 :=
  w.extractLsb' 12 20

/-- The key of LOADKEY, `cmd_data[127:0]` (20_memory.md R34). -/
def keyOperand (d : BitVec 128) : Key :=
  d

/-- The block of KASUMI, `cmd_data[63:0]` (20_memory.md R35). -/
def blockOperand (d : BitVec 128) : Block :=
  d.extractLsb' 0 64

/-- The input of FO and FL, `cmd_data[31:0]` (20_memory.md R36). -/
def halfOperand (d : BitVec 128) : Half :=
  d.extractLsb' 0 32

/-- The input of FI, `cmd_data[15:0]` (20_memory.md R36). -/
def fiInput (d : BitVec 128) : Word :=
  d.extractLsb' 0 16

/-- The subkey of FI, `cmd_data[31:16]` (20_memory.md R36). -/
def fiSubkey (d : BitVec 128) : Word :=
  d.extractLsb' 16 16

/-- Key byte `k[i] = cmd_data[127-8i : 120-8i]`, for `i` in 0..15: big-endian (20_memory.md R34). -/
def keyByte (key : Key) (i : Nat) : BitVec 8 :=
  key.extractLsb' (120 - 8 * i) 8

/-- Key word `key[n] = cmd_data[127-16n : 112-16n]` (20_memory.md R34, 41_key_schedule.md R56). -/
def keyWord (key : Key) (n : RIdx) : Word :=
  key.extractLsb' (112 - 16 * n.toNat) 16

end Sys2Proof.Machine
end

