-- ==== Sys2Proof/Syntax.lean ====
section
/-! DEFINITION. The commands of KFC-1 (30_encoding.md R48, R51), with the operands a decoded command carries: the fields
of its command word and the part of cmd_data it uses (20_memory.md R34, R35, R36). -/

namespace Sys2Proof

/-- One constructor per row of spec/opcode_table.json. -/
inductive Instr where
  /-- LOADKEY s, key: derive the key's subkeys into the slot (41_key_schedule.md R61). -/
  | loadkey (slot : SlotNo) (key : Key)
  /-- CLEARKEY s: erase the slot (41_key_schedule.md R62). -/
  | clearkey (slot : SlotNo)
  /-- KASUMI s, block: the 8-round permutation under the slot (44_kasumi.md R83). -/
  | kasumi (slot : SlotNo) (block : Block)
  /-- FO s, n, x (43_fo_fl.md R74). -/
  | fo (slot : SlotNo) (ridx : RIdx) (x : Half)
  /-- FL s, n, x (43_fo_fl.md R75). -/
  | fl (slot : SlotNo) (ridx : RIdx) (x : Half)
  /-- FI x, k (42_fi.md R69). -/
  | fi (x : Word) (k : Word)
  /-- STATUS, with the clear-after-read flag (45_status.md R84). -/
  | status (clr : Bool)
  deriving DecidableEq, Repr

end Sys2Proof
end

