-- ==== Sys2Proof/Decode.lean ====
section
/-! DEFINITION. The decoder of commands (30_encoding.md R53), total on every 32-bit command word with every 128-bit data
word, and the encoder written from the same field table (30_encoding.md R47, R48). E_SLOT and E_NOKEY depend on the state
of the core and are the meanings' (Machine/Ops.lean); E_OPCODE and E_RESERVED are decided here. -/

namespace Sys2Proof

open Sys2Proof.Machine

/-- Why the decoder refuses a command word (30_encoding.md R52). -/
inductive Reject where
  /-- OP is 0x0 or 0x8..0xF: the core answers E_OPCODE. -/
  | opcode
  /-- RSVD, or a field that must be 0 for this OP, is not 0: the core answers E_RESERVED. -/
  | reserved
  deriving DecidableEq, Repr

/-- OP is one of 0x1..0x7 (30_encoding.md R51). -/
def legalOp (op : BitVec 4) : Bool :=
  decide (1 ≤ op.toNat) && decide (op.toNat ≤ 7)

/-- The fields that must be 0 for an OP in 0x1..0x7 are 0 (30_encoding.md R48, the E_RESERVED lines of R53). -/
def unusedFieldsZero (op : BitVec 4) (slot : SlotNo) (ridx : RIdx) (clr : Bool) : Bool :=
  if op = 0x1 ∨ op = 0x2 ∨ op = 0x3 then decide (ridx = 0) && !clr
  else if op = 0x4 ∨ op = 0x5 then !clr
  else if op = 0x6 then decide (slot = 0) && decide (ridx = 0) && !clr
  else decide (slot = 0) && decide (ridx = 0)

/-- The instruction of a legal OP with its operands (30_encoding.md R48, R51). -/
def instrOf (op : BitVec 4) (slot : SlotNo) (ridx : RIdx) (clr : Bool) (data : BitVec 128) : Instr :=
  if op = 0x1 then .loadkey slot (keyOperand data)
  else if op = 0x2 then .clearkey slot
  else if op = 0x3 then .kasumi slot (blockOperand data)
  else if op = 0x4 then .fo slot ridx (halfOperand data)
  else if op = 0x5 then .fl slot ridx (halfOperand data)
  else if op = 0x6 then .fi (fiInput data) (fiSubkey data)
  else .status clr

/-- The checks of 30_encoding.md R53 that need no state, in the order written there; the first that fails decides. -/
def decode (c : Command) : Except Reject Instr :=
  if legalOp (opField c.word) = false then .error .opcode
  else if rsvdField c.word ≠ 0 then .error .reserved
  else if unusedFieldsZero (opField c.word) (slotField c.word) (ridxField c.word) (clrField c.word) = false then
    .error .reserved
  else
    .ok (instrOf (opField c.word) (slotField c.word) (ridxField c.word) (clrField c.word) c.data)

/-- A command word from its fields, most significant bit first: `rrrrrrrrrrrrrrrrrrrr c iii ssss oooo` with r = 0
(30_encoding.md R47). -/
def commandWord (op : BitVec 4) (slot : SlotNo) (ridx : RIdx) (clr : Bool) : BitVec 32 :=
  0#20 ++ (BitVec.ofBool clr ++ (ridx ++ (slot ++ op)))

/-- The command an instruction stands for; unused bits of cmd_data are written as 0 (30_encoding.md R48, R54). -/
def encode : Instr → Command
  | .loadkey slot key => ⟨commandWord 0x1 slot 0 false, key⟩
  | .clearkey slot => ⟨commandWord 0x2 slot 0 false, 0⟩
  | .kasumi slot block => ⟨commandWord 0x3 slot 0 false, block.setWidth 128⟩
  | .fo slot ridx x => ⟨commandWord 0x4 slot ridx false, x.setWidth 128⟩
  | .fl slot ridx x => ⟨commandWord 0x5 slot ridx false, x.setWidth 128⟩
  | .fi x k => ⟨commandWord 0x6 0 0 false, (k ++ x).setWidth 128⟩
  | .status clr => ⟨commandWord 0x7 0 0 clr, 0⟩

/-- The mask and the match of an instruction's row of spec/opcode_table.json: which bits of the command word the row
fixes, and at what value. -/
def tableRow : Instr → BitVec 32 × BitVec 32
  | .loadkey _ _ => (0xFFFFFF0F, 0x00000001)
  | .clearkey _ => (0xFFFFFF0F, 0x00000002)
  | .kasumi _ _ => (0xFFFFFF0F, 0x00000003)
  | .fo _ _ _ => (0xFFFFF80F, 0x00000004)
  | .fl _ _ _ => (0xFFFFF80F, 0x00000005)
  | .fi _ _ => (0xFFFFFFFF, 0x00000006)
  | .status _ => (0xFFFFF7FF, 0x00000007)

/-- The command whose bits are `w`, of which the table gives `nbits`: the command word in bits 31..0, the data word from
bit 32 on, and 0 for every bit from `nbits` on. -/
def tableCommand (nbits w : Nat) : Command :=
  ⟨BitVec.ofNat 32 (w % 2 ^ nbits), BitVec.ofNat 128 (w % 2 ^ nbits / 2 ^ 32)⟩

/-- What the decoder reads from the command whose bits are `w`, numbered as spec/opcode_table.json numbers them. -/
def decodeTableWord (nbits w : Nat) : Option Instr :=
  match decode (tableCommand nbits w) with
  | .ok i => some i
  | .error _ => none

end Sys2Proof
end

