-- ==== Sys2Proof/Config.lean ====
section
/-! DEFINITION. What an instance of the core fixes (00_scope.md R7, 10_state.md R25). LATENCY is open and no rule depends
on it (70_reset_and_hazards.md R110), so it has no constant: the edges in the state say when the core offers a response
(log entry 2). The spec leaves no result value open, so there is no free value here. -/

namespace Sys2Proof.Config

/-- CORE_ID, the ASCII bytes "KAS1" (10_state.md R25). -/
def coreId : BitVec 32 := 0x4B415331

/-- The spec's default of the parameter NUM_SLOTS (00_scope.md R7). A state of any other legal number of slots is
`Sys2Proof.Machine.State.resetWith n`. -/
def defaultNumSlots : Nat := 2

/-- The largest legal NUM_SLOTS (00_scope.md R7); the smallest is 1. -/
def maxNumSlots : Nat := 16

end Sys2Proof.Config
end

