-- ==== Sys2Proof/Machine/State.lean ====
section
/-! DEFINITION. The state of the core (10_state.md R17), of its ports (R29, R30, R31) and of the outside world as plain
data, and the state after reset (R31). The S-box tables are constants (R19) and stand in Machine/SBox.lean. -/

namespace Sys2Proof.Machine

/-- One Round Subkey Set: eight roles of eight 16-bit words each (10_state.md R20). -/
structure SubkeySet where
  kl1 : Vector Word 8
  kl2 : Vector Word 8
  ko1 : Vector Word 8
  ko2 : Vector Word 8
  ko3 : Vector Word 8
  ki1 : Vector Word 8
  ki2 : Vector Word 8
  ki3 : Vector Word 8
  deriving DecidableEq, Repr

/-- The eight subkey roles (00_scope.md R6). -/
inductive Role where
  | kl1 | kl2 | ko1 | ko2 | ko3 | ki1 | ki2 | ki3
  deriving DecidableEq, Repr

/-- The set of 64 words 0x0000: a slot's contents after reset and after CLEARKEY (10_state.md R31). -/
def SubkeySet.zero : SubkeySet where
  kl1 := Vector.replicate 8 0
  kl2 := Vector.replicate 8 0
  ko1 := Vector.replicate 8 0
  ko2 := Vector.replicate 8 0
  ko3 := Vector.replicate 8 0
  ki1 := Vector.replicate 8 0
  ki2 := Vector.replicate 8 0
  ki3 := Vector.replicate 8 0

/-- One subkey slot: `KV[s]` and `SK[s]` (10_state.md R20, R22). -/
structure Slot where
  /-- `KV[s]`: the slot holds a derived subkey set. -/
  kv : Bool
  /-- `SK[s]`. -/
  sk : SubkeySet
  deriving DecidableEq, Repr

/-- A slot with no key: `KV = 0` and every word 0x0000 (10_state.md R31, 41_key_schedule.md R62). -/
def Slot.empty : Slot where
  kv := false
  sk := SubkeySet.zero

/-- The response statuses that the core can produce (30_encoding.md R50). Codes 0x5..0xF are never produced. -/
inductive Status where
  /-- 0x0 OK. -/
  | ok
  /-- 0x1 E_OPCODE: OP is not one of 0x1..0x7. -/
  | eOpcode
  /-- 0x2 E_RESERVED: a must-be-0 field of the command word is not 0. -/
  | eReserved
  /-- 0x3 E_SLOT: SLOT >= NUM_SLOTS for an opcode that uses SLOT. -/
  | eSlot
  /-- 0x4 E_NOKEY: the slot named by KASUMI, FO or FL has KV = 0. -/
  | eNoKey
  deriving DecidableEq, Repr

/-- One response: `rsp_status` and `rsp_data` (30_encoding.md R50). -/
structure Response where
  status : Status
  data : BitVec 64
  deriving DecidableEq, Repr

/-- One rising edge of `clk` (10_state.md R29, R30): the inputs of the core at that edge, and the two choices of the core
that the spec leaves unarchitected (I8, I9, I11; log entry 2). Statements hold for every edge, so for every choice. -/
structure Edge where
  /-- `rst_n`: false is reset, active low (70_reset_and_hazards.md R99). -/
  rstN : Bool
  /-- `cmd_valid`. -/
  cmdValid : Bool
  /-- `cmd_word` and `cmd_data` as they stand at this edge. -/
  command : Command
  /-- `rsp_ready`. -/
  rspReady : Bool
  /-- What the core drives on `cmd_ready` after this edge: any value (I8, I9, I11). -/
  cmdReadyNext : Bool
  /-- Whether the core drives `rsp_valid` to 1 after this edge, if a response is waiting: any value (LATENCY, I2, I11). The
  fairness of 70_reset_and_hazards.md R107 is an assumption over all edges of a run (`Fair`, Machine/Runs.lean). -/
  rspOffer : Bool
  deriving DecidableEq, Repr

/-- The machine's state. -/
structure State where
  /-- `SK` and `KV`, slot 0 first (10_state.md R20, R22). NUM_SLOTS is the length of this list (DESIGN
  CHOICE, safe: log entry 1). -/
  slots : List Slot
  /-- `LAST_ERR` (10_state.md R23). -/
  lastErr : BitVec 4
  /-- `ERR_STICKY` (10_state.md R23). -/
  errSticky : Bool
  /-- The responses of commands in flight, oldest first: commands that have transferred and whose response has not
  (10_state.md R30, 70_reset_and_hazards.md R100). -/
  pending : List Response
  /-- `cmd_ready` (10_state.md R29). -/
  cmdReady : Bool
  /-- `rsp_valid` (10_state.md R29). -/
  rspValid : Bool
  /-- The model's own: the clock edges to come, the next one first (DESIGN CHOICE, safe: log entry 2). -/
  edges : List Edge
  /-- The model's own: the responses that have transferred to the host, oldest first (70_reset_and_hazards.md R108). -/
  delivered : List Response
  deriving DecidableEq, Repr

/-- Why the machine can stop with a fault: there is no reason at all. No rule of the spec stops the core
(60_exceptions.md R90, R91): an error is a response, and the core goes on. So this type has no constructor. -/
inductive Fault where
  deriving DecidableEq, Repr

/-- Why the model can refuse an instruction. -/
inductive Refusal where
  /-- Raised only by an arm of exec for an instruction that has no meaning yet. No arm raises it now: every instruction
  of the opcode table has its meaning. Safe: nothing is claimed about a refused instruction. -/
  | notModelled (mnemonic : String)
  deriving DecidableEq, Repr

/-- What an instruction's meaning answers. -/
abbrev Result := Host.Outcome State Fault Refusal

/-- The state after reset of a core with `n` slots (10_state.md R31): every slot empty, the log 0, nothing in flight,
`rsp_valid` 0. `cmd_ready` is unspecified there and taken as 1 (I8; DESIGN CHOICE, unsafe:
log entry 3). Nothing is offered and nothing has been
delivered (log entry 2). -/
def State.resetWith (n : Nat) : State where
  slots := List.replicate n Slot.empty
  lastErr := 0
  errSticky := false
  pending := []
  cmdReady := true
  rspValid := false
  edges := []
  delivered := []

/-- The state after reset of a core with the spec's default number of slots (00_scope.md R7, 10_state.md R31). -/
def State.reset : State :=
  State.resetWith Config.defaultNumSlots

end Sys2Proof.Machine
end

