-- ==== Sys2Proof/Machine/Ops.lean ====
section
/-! DEFINITION. The named operations over the state: the subkey file (10_state.md R20, R21, R22), the response channel
(00_scope.md R10), the error response (60_exceptions.md R87), and the ports at a clock edge (10_state.md R30). -/

namespace Sys2Proof.Machine

/-- `set.<role>[n]` (00_scope.md R10). -/
def SubkeySet.word (set : SubkeySet) (role : Role) (n : RIdx) : Word :=
  match role with
  | .kl1 => set.kl1[n.toNat]'n.isLt
  | .kl2 => set.kl2[n.toNat]'n.isLt
  | .ko1 => set.ko1[n.toNat]'n.isLt
  | .ko2 => set.ko2[n.toNat]'n.isLt
  | .ko3 => set.ko3[n.toNat]'n.isLt
  | .ki1 => set.ki1[n.toNat]'n.isLt
  | .ki2 => set.ki2[n.toNat]'n.isLt
  | .ki3 => set.ki3[n.toNat]'n.isLt

/-- The subkey set whose word `n` of role `role` is `f role n`. -/
def SubkeySet.tabulate (f : Role → RIdx → Word) : SubkeySet where
  kl1 := Vector.ofFn fun n => f .kl1 (BitVec.ofFin n)
  kl2 := Vector.ofFn fun n => f .kl2 (BitVec.ofFin n)
  ko1 := Vector.ofFn fun n => f .ko1 (BitVec.ofFin n)
  ko2 := Vector.ofFn fun n => f .ko2 (BitVec.ofFin n)
  ko3 := Vector.ofFn fun n => f .ko3 (BitVec.ofFin n)
  ki1 := Vector.ofFn fun n => f .ki1 (BitVec.ofFin n)
  ki2 := Vector.ofFn fun n => f .ki2 (BitVec.ofFin n)
  ki3 := Vector.ofFn fun n => f .ki3 (BitVec.ofFin n)

/-- NUM_SLOTS (00_scope.md R7; log entry 1). -/
def State.numSlots (s : State) : Nat :=
  s.slots.length

/-- Slot `k`, or nothing where `k >= NUM_SLOTS` (10_state.md R20). -/
def State.slot (s : State) (k : SlotNo) : Option Slot :=
  s.slots[k.toNat]?

/-- `SK[k]` and `KV[k]` written at once (20_memory.md R39); every other slot keeps its contents. -/
def State.writeSlot (s : State) (k : SlotNo) (sl : Slot) : State :=
  { s with slots := s.slots.set k.toNat sl }

/-- `respond(status, data)`: the command ends, and its response joins the response channel's queue behind those of earlier
commands (00_scope.md R10, 10_state.md R30). -/
def State.respond (s : State) (status : Status) (data : BitVec 64) : State :=
  { s with pending := s.pending ++ [⟨status, data⟩] }

/-- The 4-bit code of a status (30_encoding.md R50). -/
def Status.code : Status → BitVec 4
  | .ok => 0x0
  | .eOpcode => 0x1
  | .eReserved => 0x2
  | .eSlot => 0x3
  | .eNoKey => 0x4

/-- `LAST_ERR <- code` and `ERR_STICKY <- 1` (10_state.md R23, 60_exceptions.md R87). -/
def State.logError (s : State) (e : Status) : State :=
  { s with lastErr := e.code, errSticky := true }

/-- `LAST_ERR <- 0` and `ERR_STICKY <- 0`, the effect of STATUS with CLR = 1 (45_status.md R84). -/
def State.clearLog (s : State) : State :=
  { s with lastErr := 0, errSticky := false }

/-- `raise E` (60_exceptions.md R87), the one operation by which a command ends with an error: the log is written, the
response is E with data 0, and nothing else changes. There is no trap entry and no return from one (R90, R91): the next
command runs as usual. -/
def State.raise (s : State) (e : Status) : State :=
  (s.logError e).respond e 0

/-- The error status with which the core answers a command word that the decoder refuses (30_encoding.md R52). -/
def rejectStatus : Reject → Status
  | .opcode => .eOpcode
  | .reserved => .eReserved

/-- The check `slot >= NUM_SLOTS` of 30_encoding.md R53, then the command on the slot it names. -/
def withSlot (k : SlotNo) (s : State) (run : Slot → Result) : Result :=
  match s.slot k with
  | none => .next (s.raise .eSlot)
  | some sl => run sl

/-- The checks `slot >= NUM_SLOTS` and `KV[slot] = 0` of 30_encoding.md R53, in this order, then the command on the
slot's subkeys. -/
def withKey (k : SlotNo) (s : State) (run : SubkeySet → Result) : Result :=
  withSlot k s fun sl =>
    match sl.kv with
    | true => run sl.sk
    | false => .next (s.raise .eNoKey)

/-- The state with the edges to come replaced: a step takes the next one off. -/
def State.withEdges (s : State) (rest : List Edge) : State :=
  { s with edges := rest }

/-- The port signals `rsp_status` and `rsp_data`: the oldest response in flight while `rsp_valid` is 1, and nothing else
(10_state.md R30). -/
def State.rspPort (s : State) : Option Response :=
  if s.rspValid then s.pending.head? else none

/-- A command transfers at an edge with `cmd_valid = 1` and `cmd_ready = 1` (10_state.md R30). -/
def State.commandTransfers (s : State) (e : Edge) : Bool :=
  s.cmdReady && e.cmdValid

/-- A response transfers at an edge with `rsp_valid = 1` and `rsp_ready = 1` (10_state.md R30). -/
def State.responseTransfers (s : State) (e : Edge) : Bool :=
  s.rspValid && e.rspReady

/-- The oldest response moves to the host (10_state.md R30); with none waiting, nothing moves. -/
def State.deliver (s : State) : State :=
  match s.pending with
  | [] => s
  | r :: rest => { s with pending := rest, delivered := s.delivered ++ [r] }

/-- The response channel at an edge: the oldest response moves if its transfer takes place (10_state.md R30). -/
def State.responseEdge (s : State) (e : Edge) : State :=
  if s.responseTransfers e then s.deliver else s

/-- What the core drives after an edge (10_state.md R30): `cmd_ready` as it likes, and `rsp_valid` as it likes but only
with a response waiting (I11; log entry 2). -/
def State.driveOutputs (s : State) (e : Edge) : State :=
  { s with cmdReady := e.cmdReadyNext, rspValid := !s.pending.isEmpty && e.rspOffer }

/-- Reset (70_reset_and_hazards.md R99, R100): the reset state of 10_state.md R31, with the number of slots the core has.
Responses in flight are discarded; the host keeps those delivered before. `cmd_ready` is any value (I8). -/
def State.resetEdge (s : State) (e : Edge) : State :=
  { State.resetWith s.numSlots with cmdReady := e.cmdReadyNext, edges := s.edges, delivered := s.delivered }

end Sys2Proof.Machine
end

