-- ==== Sys2Proof/Machine/Fi.lean ====
section
/-! DEFINITION. The function FI (42_fi.md R67) and the FI command (R69). -/

namespace Sys2Proof.Machine

/-- The two halves that FI works on: the 9-bit `nine` and the 7-bit `seven` (42_fi.md R67). -/
structure FiHalves where
  nine : BitVec 9
  seven : BitVec 7
  deriving DecidableEq, Repr

/-- `nine = x[15:7]`, `seven = x[6:0]` (42_fi.md R67). -/
def fiSplit (x : Word) : FiHalves where
  nine := x.extractLsb' 7 9
  seven := x.extractLsb' 0 7

/-- One round of table substitution: `nine = S9[nine] ^ zext_9(seven)`, then `seven = S7[seven] ^ nine[6:0]` with the new
`nine` and the old `seven` (42_fi.md R67). -/
def fiRound (h : FiHalves) : FiHalves :=
  let nine := s9 h.nine ^^^ h.seven.setWidth 9
  { nine := nine, seven := s7 h.seven ^^^ nine.extractLsb' 0 7 }

/-- The subkey between the rounds: `seven ^ k[15:9]` and `nine ^ k[8:0]` (42_fi.md R67). -/
def fiAddKey (k : Word) (h : FiHalves) : FiHalves where
  nine := h.nine ^^^ k.extractLsb' 0 9
  seven := h.seven ^^^ k.extractLsb' 9 7

/-- `seven || nine` (42_fi.md R67). -/
def fiJoin (h : FiHalves) : Word :=
  h.seven ++ h.nine

/-- `FI(x, k)` (42_fi.md R67). -/
def fi (x k : Word) : Word :=
  fiJoin (fiRound (fiAddKey k (fiRound (fiSplit x))))

/-- FI x, k (42_fi.md R69): no slot is read and no state changes. -/
def execFi (x k : Word) (s : State) : Result :=
  .next (s.respond .ok ((fi x k).setWidth 64))

end Sys2Proof.Machine
end

