-- ==== Sys2Proof/Machine/FoFl.lean ====
section
/-! DEFINITION. The functions FO (43_fo_fl.md R70) and FL (R72) under one subkey set, and the FO and FL commands
(R74, R75). -/

namespace Sys2Proof.Machine

/-- One step of FO on a half `a` beside the other half `b`: `a = a ^ KO; a = FI(a, KI); a = a ^ b` (43_fo_fl.md R70). -/
def foStep (ko ki a b : Word) : Word :=
  fi (a ^^^ ko) ki ^^^ b

/-- `FO(x, n)` with the words of `sk` at index `n` (43_fo_fl.md R70). The result is `r || l`. -/
def fo (sk : SubkeySet) (n : RIdx) (x : Half) : Half :=
  let l := foStep (sk.word .ko1 n) (sk.word .ki1 n) (highWord x) (lowWord x)
  let r := foStep (sk.word .ko2 n) (sk.word .ki2 n) (lowWord x) l
  let l := foStep (sk.word .ko3 n) (sk.word .ki3 n) l r
  r ++ l

/-- `FL(x, n)` with the words of `sk` at index `n` (43_fo_fl.md R72). The result is `l || r`, and the OR reads the new
`r`. -/
def fl (sk : SubkeySet) (n : RIdx) (x : Half) : Half :=
  let l := highWord x
  let r := lowWord x
  let r := r ^^^ rol16 (l &&& sk.word .kl1 n) 1
  let l := l ^^^ rol16 (r ||| sk.word .kl2 n) 1
  l ++ r

/-- FO s, n, x (43_fo_fl.md R74). -/
def execFo (slot : SlotNo) (ridx : RIdx) (x : Half) (s : State) : Result :=
  withKey slot s fun sk => .next (s.respond .ok ((fo sk ridx x).setWidth 64))

/-- FL s, n, x (43_fo_fl.md R75). -/
def execFl (slot : SlotNo) (ridx : RIdx) (x : Half) (s : State) : Result :=
  withKey slot s fun sk => .next (s.respond .ok ((fl sk ridx x).setWidth 64))

end Sys2Proof.Machine
end

