-- ==== Sys2Proof/Machine/Kasumi.lean ====
section
/-! DEFINITION. The 8-round permutation (44_kasumi.md R76 to R80) and the KASUMI command (R83). -/

namespace Sys2Proof.Machine

/-- The two 32-bit halves of a block in the rounds (44_kasumi.md R76). -/
structure BlockHalves where
  left : Half
  right : Half
  deriving DecidableEq, Repr

/-- `left = blk[63:32]`, `right = blk[31:0]` (44_kasumi.md R76). -/
def splitBlock (blk : Block) : BlockHalves where
  left := leftHalf blk
  right := rightHalf blk

/-- `left || right`, not swapped and never interleaved (44_kasumi.md R79, 90_conflicts.md C1). -/
def joinBlock (h : BlockHalves) : Block :=
  h.left ++ h.right

/-- A round with even index `n`: `right = right ^ FO(FL(left, n), n)` (44_kasumi.md R77). -/
def evenRound (sk : SubkeySet) (n : RIdx) (h : BlockHalves) : BlockHalves :=
  { h with right := h.right ^^^ fo sk n (fl sk n h.left) }

/-- A round with odd index `n`: `left = left ^ FL(FO(right, n), n)` (44_kasumi.md R77). -/
def oddRound (sk : SubkeySet) (n : RIdx) (h : BlockHalves) : BlockHalves :=
  { h with left := h.left ^^^ fl sk n (fo sk n h.right) }

/-- Round `n` (44_kasumi.md R77, R78): both functions use the words of index `n`. -/
def kasumiRound (sk : SubkeySet) (h : BlockHalves) (n : RIdx) : BlockHalves :=
  if n.getLsbD 0 then oddRound sk n h else evenRound sk n h

/-- The round indices in the order they are used (44_kasumi.md R77). -/
def roundIndices : List RIdx :=
  [0, 1, 2, 3, 4, 5, 6, 7]

/-- `KASUMI(blk)` under a subkey set (44_kasumi.md R80). -/
def kasumi (sk : SubkeySet) (blk : Block) : Block :=
  joinBlock (roundIndices.foldl (kasumiRound sk) (splitBlock blk))

/-- KASUMI s, block (44_kasumi.md R83). -/
def execKasumi (slot : SlotNo) (block : Block) (s : State) : Result :=
  withKey slot s fun sk => .next (s.respond .ok (kasumi sk block))

end Sys2Proof.Machine
end

