-- ==== Sys2Proof/Machine/KeySchedule.lean ====
section
/-! DEFINITION. The key schedule (41_key_schedule.md R56 to R59) and the commands that write a slot: LOADKEY (R61) and
CLEARKEY (R62). -/

namespace Sys2Proof.Machine

/-- The constant sequence `C[0..7]` (41_key_schedule.md R57). -/
def scheduleConstants : Vector Word 8 :=
  #v[0x0123, 0x4567, 0x89AB, 0xCDEF, 0xFEDC, 0xBA98, 0x7654, 0x3210]

/-- `C[n]` (41_key_schedule.md R57). -/
def scheduleConstant (n : RIdx) : Word :=
  scheduleConstants[n.toNat]'n.isLt

/-- `key'[n] = key[n] ^ C[n]` (41_key_schedule.md R58). -/
def keyWord' (key : Key) (n : RIdx) : Word :=
  keyWord key n ^^^ scheduleConstant n

/-- Word `n` of a role in the subkey set of a key (41_key_schedule.md R59). Indices are `mod 8` because they have 3 bits. -/
def scheduleWord (key : Key) (role : Role) (n : RIdx) : Word :=
  match role with
  | .kl1 => rol16 (keyWord key n) 1
  | .kl2 => keyWord' key (n + 2)
  | .ko1 => rol16 (keyWord key (n + 1)) 5
  | .ko2 => rol16 (keyWord key (n + 5)) 8
  | .ko3 => rol16 (keyWord key (n + 6)) 13
  | .ki1 => keyWord' key (n + 4)
  | .ki2 => keyWord' key (n + 3)
  | .ki3 => keyWord' key (n + 7)

/-- `KeySchedule(key[0..7])` (41_key_schedule.md R59). -/
def keySchedule (key : Key) : SubkeySet :=
  SubkeySet.tabulate (scheduleWord key)

/-- LOADKEY s, key (41_key_schedule.md R61): all 64 words of the slot and its KV are written at once; the key itself is
not kept (10_state.md R18). -/
def execLoadkey (slot : SlotNo) (key : Key) (s : State) : Result :=
  withSlot slot s fun _ =>
    .next ((s.writeSlot slot { kv := true, sk := keySchedule key }).respond .ok 0)

/-- CLEARKEY s (41_key_schedule.md R62). -/
def execClearkey (slot : SlotNo) (s : State) : Result :=
  withSlot slot s fun _ =>
    .next ((s.writeSlot slot { kv := false, sk := SubkeySet.zero }).respond .ok 0)

end Sys2Proof.Machine
end

