-- ==== Sys2Proof/Machine/Flags.lean ====
section
/-! DEFINITION. The core has no condition codes (10_state.md R27). Its one status register is the 64-bit status word,
which holds nothing of its own: it is computed from the key-valid bits, NUM_SLOTS and the error log (10_state.md R24). -/

namespace Sys2Proof.Machine

/-- `KV[i]` for `i < NUM_SLOTS`, and 0 otherwise (45_status.md R84). -/
def State.keyValidBit (s : State) (i : Nat) : Bool :=
  match s.slots[i]? with
  | some sl => sl.kv
  | none => false

/-- KEY_VALID[15:0], bit `i` being `KV[i]` (10_state.md R24). -/
def State.keyValid (s : State) : BitVec 16 :=
  BitVec.ofFnLE fun i : Fin 16 => s.keyValidBit i

/-- The status word, from high to low bits: CORE_ID [63:32], 0 [31:29], ERR_STICKY [28], LAST_ERR [27:24], 0 [23:21],
NSLOTS [20:16], KEY_VALID [15:0] (45_status.md R84). -/
def State.statusWord (s : State) : BitVec 64 :=
  Config.coreId ++ (0#3 ++ (BitVec.ofBool s.errSticky ++ (s.lastErr ++ (0#3 ++ (BitVec.ofNat 5 s.numSlots ++ s.keyValid)))))

end Sys2Proof.Machine
end

