-- ==== Sys2Proof/Machine/StatusCommand.lean ====
section
/-! DEFINITION. The STATUS command (45_status.md R84). -/

namespace Sys2Proof.Machine

/-- STATUS, and STATUS clr (45_status.md R84): the word shows the log as it stood before the clear. -/
def execStatus (clr : Bool) (s : State) : Result :=
  match clr with
  | true => .next (s.clearLog.respond .ok s.statusWord)
  | false => .next (s.respond .ok s.statusWord)

end Sys2Proof.Machine
end

