-- ==== Sys2Proof/Machine/Dispatch.lean ====
section
/-! DEFINITION. One arm per command of KFC-1 (30_encoding.md R51). -/

namespace Sys2Proof.Machine

def exec (i : Instr) (s : State) : Host.Outcome State Fault Refusal :=
  match i with
  | .loadkey slot key => Sys2Proof.Machine.execLoadkey slot key s
  | .clearkey slot => Sys2Proof.Machine.execClearkey slot s
  | .kasumi slot block => Sys2Proof.Machine.execKasumi slot block s
  | .fo slot ridx x => Sys2Proof.Machine.execFo slot ridx x s
  | .fl slot ridx x => Sys2Proof.Machine.execFl slot ridx x s
  | .fi x k => Sys2Proof.Machine.execFi x k s
  | .status clr => Sys2Proof.Machine.execStatus clr s

end Sys2Proof.Machine
end

