-- ==== Sys2Proof/Machine/Clock.lean ====
section
/-! DEFINITION. What one rising edge of `clk` does (10_state.md R30, 70_reset_and_hazards.md R99): the response transfer,
the command transfer with the whole effect of the command (20_memory.md R41), and the outputs after it (DEDUCED, safe: log
entries 6 and 7). -/

namespace Sys2Proof.Machine

/-- A command that has transferred runs to its response: the decoder's errors are raised, a decoded command is executed
(30_encoding.md R53). -/
def runCommand (c : Command) (s : State) : Result :=
  match decode c with
  | .ok i => exec i s
  | .error r => .next (s.raise (rejectStatus r))

/-- The outputs are driven after a command that answered a next state; any other answer stands. -/
def driveAfter (e : Edge) (o : Result) : Result :=
  match o with
  | .next s => .next (s.driveOutputs e)
  | .fault f => .fault f
  | .refused r => .refused r

/-- One edge, on a state whose `edges` already start after it. While `rst_n = 0` no command is accepted and no response
is delivered (70_reset_and_hazards.md R99, R100). Otherwise the oldest response may transfer, and a command may transfer
and take effect. -/
def clockEdge (e : Edge) (s : State) : Result :=
  match e.rstN with
  | false => .next (s.resetEdge e)
  | true =>
    match s.commandTransfers e with
    | true => driveAfter e (runCommand e.command (s.responseEdge e))
    | false => .next ((s.responseEdge e).driveOutputs e)

end Sys2Proof.Machine
end

