-- ==== Sys2Proof/Machine/Step.lean ====
section
/-! DEFINITION. One step of the machine: the next clock edge. With no edge to come the core is idle and keeps all state
(60_exceptions.md R98). -/

namespace Sys2Proof.Machine

/-- One step: the next edge, taken off the list. -/
def step (s : State) : Host.Outcome State Fault Refusal :=
  match s.edges with
  | [] => .next s
  | e :: rest => clockEdge e (s.withEdges rest)

/-- `s` with the command of these bits offered at the very next edge and `cmd_ready` at 1, so that the next step transfers
and runs exactly it. The core has no instruction fetch (10_state.md R26): this stands for the host offering one command
(DESIGN CHOICE, safe: log entry 5). -/
def State.withFetchWord (s : State) (nbits w : Nat) : State :=
  { s with
    cmdReady := true
    edges :=
      { rstN := true, cmdValid := true, command := Sys2Proof.tableCommand nbits w, rspReady := false,
        cmdReadyNext := true, rspOffer := true } :: s.edges }

end Sys2Proof.Machine
end

