-- ==== Sys2Proof/Machine/Runs.lean ====
section
/-! DEFINITION. Runs of the machine: which commands transfer in a run, when a run of a command sequence has ended
(70_reset_and_hazards.md R108), the same commands at transaction level (10_state.md R30, 20_memory.md R41), and the
fairness assumption of liveness (70_reset_and_hazards.md R107; its form is the model's: DESIGN CHOICE, safe: log
entry 8). -/

namespace Sys2Proof.Machine

/-- `n` steps take the machine from `s` to `t`. -/
abbrev State.RunsTo (s : State) (n : Nat) (t : State) : Prop :=
  Host.Core.run Sys2Proof.core n s = .next t

/-- The command that transfers at the next edge, if one does (10_state.md R30). -/
def State.nextTransfer (s : State) : List Command :=
  match s.edges with
  | [] => []
  | e :: _ => if e.rstN && s.commandTransfers e then [e.command] else []

/-- The commands that transfer in the next `n` steps, in order (10_state.md R30). -/
def State.transfers (s : State) : Nat → List Command
  | 0 => []
  | n + 1 =>
    s.nextTransfer ++
      match step s with
      | .next t => t.transfers n
      | .fault _ => []
      | .refused _ => []

/-- No reset comes in the next `n` steps. -/
def State.NoResetFor (s : State) (n : Nat) : Prop :=
  ∀ e ∈ s.edges.take n, e.rstN = true

/-- The run of the command sequence `cmds` from `s` has ended after `n` steps, in `t`: every command of the sequence has
transferred, and its response, like those in flight at `s`, has been delivered (70_reset_and_hazards.md R108). A run in
this sense has no reset in it (DEDUCED, safe: log entry 9). It does not say when a command or a response transferred. -/
structure State.RunEnded (s : State) (n : Nat) (cmds : List Command) (t : State) : Prop where
  runs : s.RunsTo n t
  noReset : s.NoResetFor n
  transferred : s.transfers n = cmds
  answered : t.delivered.length = s.delivered.length + s.pending.length + cmds.length

/-- The run of a command sequence at transaction level: one command in, one response out, in order (10_state.md R30,
20_memory.md R41). The responses stand in `pending`. -/
def runCommands : List Command → State → Result
  | [], s => .next s
  | c :: rest, s =>
    match runCommand c s with
    | .next t => runCommands rest t
    | .fault f => .fault f
    | .refused r => .refused r

/-- Two states agree on the state of 10_state.md R17 (its tables are constants). -/
structure State.SameArchitectural (s t : State) : Prop where
  slots : s.slots = t.slots
  lastErr : s.lastErr = t.lastErr
  errSticky : s.errSticky = t.errSticky

/-- `s` with the first `n` edges of an unending sequence to come. -/
def State.fed (s : State) (es : Nat → Edge) (n : Nat) : State :=
  s.withEdges ((List.range n).map es)

/-- Reset is not asserted (the proviso of 70_reset_and_hazards.md R107). -/
def NoReset (es : Nat → Edge) : Prop :=
  ∀ n, (es n).rstN = true

/-- The host eventually raises `rsp_ready`, again and again (the proviso of 70_reset_and_hazards.md R107). -/
def HostTakes (es : Nat → Edge) : Prop :=
  ∀ n, ∃ m, n ≤ m ∧ (es m).rspReady = true

/-- The core is fair: at every time it comes after a finite time to offer its oldest waiting response, and then offers it
until `rsp_ready` is 1 at an edge (the fairness assumption of 70_reset_and_hazards.md R107; log entry 8). -/
def CoreOffers (es : Nat → Edge) : Prop :=
  ∀ n, ∃ m, n ≤ m ∧ ∀ k, m ≤ k → (∀ j, m < j → j ≤ k → (es j).rspReady = false) → (es k).rspOffer = true

/-- The edges of a run under the provisos and the assumption of 70_reset_and_hazards.md R107. -/
structure Fair (es : Nat → Edge) : Prop where
  noReset : NoReset es
  hostTakes : HostTakes es
  coreOffers : CoreOffers es

end Sys2Proof.Machine
end

