-- ==== Sys2Proof/WellFormed.lean ====
section
/-! DEFINITION. The one check on an instruction that its types do not make: a SLOT operand is legal only below NUM_SLOTS
(30_encoding.md R47, R49). The machine does not rest on it: an illegal slot is answered with E_SLOT (30_encoding.md R53).
Every other operand is legal at every value of its width (30_encoding.md R49). -/

namespace Sys2Proof

/-- The slot an instruction names, if its opcode uses SLOT (30_encoding.md R48). -/
def Instr.slotOperand : Instr → Option SlotNo
  | .loadkey slot _ => some slot
  | .clearkey slot => some slot
  | .kasumi slot _ => some slot
  | .fo slot _ _ => some slot
  | .fl slot _ _ => some slot
  | .fi _ _ => none
  | .status _ => none

/-- An instruction is well formed for a core of `numSlots` slots when the slot it names is one of them
(30_encoding.md R47). -/
def Instr.wellFormed (numSlots : Nat) (i : Instr) : Bool :=
  match i.slotOperand with
  | none => true
  | some slot => decide (slot.toNat < numSlots)

end Sys2Proof
end

