-- ==== Sys2Proof/Safety.lean ====
section
/-! DEFINITION. What counts as a good state of the core, and the terms that the statements use. -/

namespace Sys2Proof.Machine

/-- The number of slots is legal: 1 to 16 (00_scope.md R7). -/
abbrev State.LegalNumSlots (s : State) : Prop :=
  1 ≤ s.numSlots ∧ s.numSlots ≤ Config.maxNumSlots

/-- The error log is consistent: LAST_ERR is 0 to 4 (10_state.md R24), and ERR_STICKY is 1 exactly if LAST_ERR is not 0
(10_state.md R23). -/
abbrev State.LogConsistent (s : State) : Prop :=
  s.lastErr.toNat ≤ 4 ∧ (s.errSticky = true ↔ s.lastErr ≠ 0)

/-- A slot whose KV is 0 holds 64 words 0x0000 (10_state.md R31, 41_key_schedule.md R62, I10). -/
abbrev State.UnkeyedSlotsZero (s : State) : Prop :=
  ∀ sl ∈ s.slots, sl.kv = false → sl.sk = SubkeySet.zero

/-- A response with an error status carries data 0 (30_encoding.md R50). -/
abbrev Response.ErrorDataZero (r : Response) : Prop :=
  r.status ≠ .ok → r.data = 0

/-- Every response in flight or delivered that has an error status carries data 0 (30_encoding.md R50). -/
abbrev State.ErrorResponsesZero (s : State) : Prop :=
  (∀ r ∈ s.pending, r.ErrorDataZero) ∧ (∀ r ∈ s.delivered, r.ErrorDataZero)

/-- `rsp_valid` is 1 only with a response to offer (10_state.md R30). -/
abbrev State.OfferBacked (s : State) : Prop :=
  s.rspValid = true → s.pending ≠ []

/-- The invariant of the core: all of the above. -/
abbrev State.Inv (s : State) : Prop :=
  s.LegalNumSlots ∧ s.LogConsistent ∧ s.UnkeyedSlotsZero ∧ s.ErrorResponsesZero ∧ s.OfferBacked

/-- Every slot whose KV is 1 holds the subkey set of some key (10_state.md R22: KV says that the slot holds a derived
subkey set). -/
def State.KeyedSlotsDerived (s : State) : Prop :=
  ∀ sl ∈ s.slots, sl.kv = true → ∃ key : Key, sl.sk = keySchedule key

/-- Two states of which the second may differ from the first in subkey words only: everything else, the KV bits
included, is equal. -/
def State.SameButSubkeys (s t : State) : Prop :=
  { t with slots := s.slots } = s ∧ t.slots.map Slot.kv = s.slots.map Slot.kv

end Sys2Proof.Machine

namespace Sys2Proof

/-- OP of a command, `cmd_word[3:0]` (30_encoding.md R47). -/
abbrev Command.op (c : Command) : BitVec 4 := c.word.extractLsb' 0 4

/-- SLOT of a command, `cmd_word[7:4]` (30_encoding.md R47). -/
abbrev Command.slot (c : Command) : BitVec 4 := c.word.extractLsb' 4 4

/-- RIDX of a command, `cmd_word[10:8]` (30_encoding.md R47). -/
abbrev Command.ridx (c : Command) : BitVec 3 := c.word.extractLsb' 8 3

/-- CLR of a command, `cmd_word[11]` (30_encoding.md R47). -/
abbrev Command.clr (c : Command) : BitVec 1 := c.word.extractLsb' 11 1

/-- RSVD of a command, `cmd_word[31:12]` (30_encoding.md R47). -/
abbrev Command.rsvd (c : Command) : BitVec 20 := c.word.extractLsb' 12 20

/-- OP is 0x0 or 0x8..0xF (30_encoding.md R51). -/
abbrev Command.IllegalOp (c : Command) : Prop := c.op = 0x0 ∨ 0x8 ≤ c.op.toNat

/-- A field that must be 0 for the command's opcode is not 0: the E_RESERVED lines of 30_encoding.md R53. -/
abbrev Command.ReservedSet (c : Command) : Prop :=
  c.rsvd ≠ 0 ∨
  ((c.op = 0x1 ∨ c.op = 0x2 ∨ c.op = 0x3) ∧ (c.ridx ≠ 0 ∨ c.clr ≠ 0)) ∨
  ((c.op = 0x4 ∨ c.op = 0x5) ∧ c.clr ≠ 0) ∨
  (c.op = 0x6 ∧ (c.slot ≠ 0 ∨ c.ridx ≠ 0 ∨ c.clr ≠ 0)) ∨
  (c.op = 0x7 ∧ (c.slot ≠ 0 ∨ c.ridx ≠ 0))

/-- The opcode uses SLOT: LOADKEY, CLEARKEY, KASUMI, FO, FL (30_encoding.md R48). -/
abbrev Command.UsesSlot (c : Command) : Prop :=
  c.op = 0x1 ∨ c.op = 0x2 ∨ c.op = 0x3 ∨ c.op = 0x4 ∨ c.op = 0x5

/-- The opcode reads a slot's subkeys: KASUMI, FO, FL (30_encoding.md R53). -/
abbrev Command.NeedsKey (c : Command) : Prop := c.op = 0x3 ∨ c.op = 0x4 ∨ c.op = 0x5

/-- FI, FO, FL and KASUMI: the commands that change no state when they succeed (20_memory.md R40). -/
def Instr.computes : Instr → Bool
  | .loadkey _ _ => false
  | .clearkey _ => false
  | .kasumi _ _ => true
  | .fo _ _ _ => true
  | .fl _ _ _ => true
  | .fi _ _ => true
  | .status _ => false

/-- LOADKEY and CLEARKEY: the commands that write a slot (10_state.md R21). -/
def Instr.writesSlot : Instr → Bool
  | .loadkey _ _ => true
  | .clearkey _ => true
  | .kasumi _ _ => false
  | .fo _ _ _ => false
  | .fl _ _ _ => false
  | .fi _ _ => false
  | .status _ => false

/-- STATUS, with or without the clear. -/
def Instr.isStatus : Instr → Bool
  | .loadkey _ _ => false
  | .clearkey _ => false
  | .kasumi _ _ => false
  | .fo _ _ _ => false
  | .fl _ _ _ => false
  | .fi _ _ => false
  | .status _ => true

end Sys2Proof
end

