-- ==== Sys2Proof/Certificates/Slice0/Obligations.lean ====
section
/-! DEFINITION. The statements for the provers. -/

open Sys2Proof Sys2Proof.Machine

/-! ## Encoding -/

/-- Every instruction, with every operand at every value, decodes back from its own encoding (30_encoding.md R48, R53). -/
def Obligations.DecodeOfEncodeIsTheInstruction : Prop :=
  ∀ i : Instr, decode (encode i) = .ok i

/-- The decoder accepts exactly the command words of the rows of spec/opcode_table.json, each as its own row. -/
def Obligations.DecoderAcceptsExactlyTheTableRows : Prop :=
  (∀ (c : Command) (i : Instr), decode c = .ok i → c.word &&& (tableRow i).1 = (tableRow i).2) ∧
  (∀ (c : Command) (j : Instr), c.word &&& (tableRow j).1 = (tableRow j).2 →
    ∃ i, decode c = .ok i ∧ tableRow i = tableRow j)

/-- No bit of an accepted command word is dropped: the decoded instruction encodes to the same command word. -/
def Obligations.DecodedInstructionKeepsTheCommandWord : Prop :=
  ∀ (c : Command) (i : Instr), decode c = .ok i → (encode i).word = c.word

/-- A few command words written out from the field table of 30_encoding.md decode to what they stand for. -/
def Obligations.WordsWrittenOutDecode : Prop :=
  decode ⟨0x00000011, 0x2BD6459F82C5B300952C49104881FF48⟩ = .ok (.loadkey 1 0x2BD6459F82C5B300952C49104881FF48) ∧
  decode ⟨0x00000012, 0⟩ = .ok (.clearkey 1) ∧
  decode ⟨0x00000003, 0x0000000000000000EA024714AD5C4D84⟩ = .ok (.kasumi 0 0xEA024714AD5C4D84) ∧
  decode ⟨0x00000704, 0xFFFFFFFF⟩ = .ok (.fo 0 7 0xFFFFFFFF) ∧
  decode ⟨0x00000105, 0x03E715B9⟩ = .ok (.fl 0 1 0x03E715B9) ∧
  decode ⟨0x00000006, 0xABCD1234⟩ = .ok (.fi 0x1234 0xABCD) ∧
  decode ⟨0x00000807, 0⟩ = .ok (.status true) ∧
  decode ⟨0x00000000, 0⟩ = .error .opcode ∧
  decode ⟨0x80000008, 0⟩ = .error .opcode ∧
  decode ⟨0x000010F3, 0⟩ = .error .reserved ∧
  decode ⟨0x00000817, 0⟩ = .error .reserved

/-- 30_encoding.md R53 and 60_exceptions.md R88: the checks run in the order written, the first that fails decides, and a
command that passes them all executes the rule of its opcode. So every command answers with exactly one response. -/
def Obligations.ChecksRunInOrderAndFirstErrorWins : Prop :=
  (∀ (c : Command) (s : State),
    runCommand c s =
      if c.IllegalOp then .next (s.raise .eOpcode)
      else if c.ReservedSet then .next (s.raise .eReserved)
      else if c.UsesSlot ∧ s.numSlots ≤ c.slot.toNat then .next (s.raise .eSlot)
      else if c.NeedsKey ∧ (s.slot c.slot).map Slot.kv = some false then .next (s.raise .eNoKey)
      else if c.op = 0x1 then exec (.loadkey c.slot c.data) s
      else if c.op = 0x2 then exec (.clearkey c.slot) s
      else if c.op = 0x3 then exec (.kasumi c.slot (c.data.extractLsb' 0 64)) s
      else if c.op = 0x4 then exec (.fo c.slot c.ridx (c.data.extractLsb' 0 32)) s
      else if c.op = 0x5 then exec (.fl c.slot c.ridx (c.data.extractLsb' 0 32)) s
      else if c.op = 0x6 then exec (.fi (c.data.extractLsb' 0 16) (c.data.extractLsb' 16 16)) s
      else exec (.status (decide (c.clr = 1))) s) ∧
  (∀ (c : Command) (s : State), ∃ (t : State) (r : Response),
    runCommand c s = .next t ∧ t.pending = s.pending ++ [r]) ∧
  (∀ (d : BitVec 128) (s : State), s.numSlots = 2 → runCommand ⟨0x000010F3, d⟩ s = .next (s.raise .eReserved))

/-- 20_memory.md R36: where FO, FL and FI take their operands and put their results, and that the bits of cmd_data a
command does not use do not change what it is. -/
def Obligations.NarrowOperandsAndIgnoredData : Prop :=
  (∀ (slot : SlotNo) (n : RIdx) (d : BitVec 128),
    decode ⟨0x4 ||| (slot.setWidth 32 <<< 4) ||| (n.setWidth 32 <<< 8), d⟩ = .ok (.fo slot n (d.extractLsb' 0 32)) ∧
    decode ⟨0x5 ||| (slot.setWidth 32 <<< 4) ||| (n.setWidth 32 <<< 8), d⟩ = .ok (.fl slot n (d.extractLsb' 0 32))) ∧
  (∀ d : BitVec 128, decode ⟨0x6, d⟩ = .ok (.fi (d.extractLsb' 0 16) (d.extractLsb' 16 16))) ∧
  (∀ (s : State) (slot : SlotNo) (sl : Slot) (n : RIdx) (x : Half), s.slot slot = some sl → sl.kv = true →
    (∃ d : BitVec 64, exec (.fo slot n x) s = .next (s.respond .ok d) ∧
      d.extractLsb' 0 32 = fo sl.sk n x ∧ d.extractLsb' 32 32 = 0#32) ∧
    (∃ d : BitVec 64, exec (.fl slot n x) s = .next (s.respond .ok d) ∧
      d.extractLsb' 0 32 = fl sl.sk n x ∧ d.extractLsb' 32 32 = 0#32)) ∧
  (∀ (s : State) (x k : Word), ∃ d : BitVec 64, exec (.fi x k) s = .next (s.respond .ok d) ∧
    d.extractLsb' 0 16 = fi x k ∧ d.extractLsb' 16 48 = 0#48) ∧
  (∀ x : Half, highWord x = x.extractLsb' 16 16) ∧
  (∀ (w : BitVec 32) (d d' : BitVec 128),
    ((w.extractLsb' 0 4 = 0x2#4 ∨ w.extractLsb' 0 4 = 0x7#4) → decode ⟨w, d⟩ = decode ⟨w, d'⟩) ∧
    (w.extractLsb' 0 4 = 0x3#4 → d.extractLsb' 0 64 = d'.extractLsb' 0 64 → decode ⟨w, d⟩ = decode ⟨w, d'⟩) ∧
    ((w.extractLsb' 0 4 = 0x4#4 ∨ w.extractLsb' 0 4 = 0x5#4 ∨ w.extractLsb' 0 4 = 0x6#4) →
      d.extractLsb' 0 32 = d'.extractLsb' 0 32 → decode ⟨w, d⟩ = decode ⟨w, d'⟩))

/-- 20_memory.md R34 and 41_key_schedule.md R56: the key bytes and the key words on the data port of LOADKEY. -/
def Obligations.KeyBytesAndWordsAreBigEndian : Prop :=
  (∀ (slot : SlotNo) (d : BitVec 128),
    decode ⟨0x1 ||| (slot.setWidth 32 <<< 4), d⟩ = .ok (.loadkey slot d)) ∧
  (∀ (d : Key) (i : Nat), i < 16 → keyByte d i = d.extractLsb' (120 - 8 * i) 8) ∧
  (∀ d : Key, keyByte d 0 = d.extractLsb' 120 8 ∧ keyByte d 15 = d.extractLsb' 0 8) ∧
  (∀ (d : Key) (n : RIdx), keyWord d n = keyByte d (2 * n.toNat) ++ keyByte d (2 * n.toNat + 1) ∧
    keyWord d n = d.extractLsb' (112 - 16 * n.toNat) 16)

/-! ## The functions of the cipher -/

/-- 41_key_schedule.md R55: rol16 by its formula, bit by bit, and its four examples. -/
def Obligations.RotateLeftMovesEveryBit : Prop :=
  (∀ (v : Word) (r : Nat), 1 ≤ r → r ≤ 15 →
    rol16 v r = (v <<< r) ||| (v >>> (16 - r)) ∧
    ∀ i, i < 16 → (rol16 v r).getLsbD i = v.getLsbD ((i + 16 - r) % 16)) ∧
  rol16 0x8001 1 = 0x0003 ∧ rol16 0x8001 5 = 0x0030 ∧ rol16 0x8001 8 = 0x0180 ∧ rol16 0x8001 13 = 0x3000

/-- 41_key_schedule.md R57, R58 and R59: every word of the subkey set of a key, with the indices mod 8 written out as
numbers. -/
def Obligations.KeyScheduleWords : Prop :=
  (List.ofFn fun n : Fin 8 => scheduleConstant (BitVec.ofFin n)) =
    [0x0123, 0x4567, 0x89AB, 0xCDEF, 0xFEDC, 0xBA98, 0x7654, 0x3210] ∧
  (∀ (key : Key) (n : RIdx), keyWord' key n = keyWord key n ^^^ scheduleConstant n) ∧
  (∀ (key : Key) (n : RIdx),
    (keySchedule key).word .kl1 n = rol16 (keyWord key n) 1 ∧
    (keySchedule key).word .kl2 n = keyWord' key (BitVec.ofNat 3 ((n.toNat + 2) % 8)) ∧
    (keySchedule key).word .ko1 n = rol16 (keyWord key (BitVec.ofNat 3 ((n.toNat + 1) % 8))) 5 ∧
    (keySchedule key).word .ko2 n = rol16 (keyWord key (BitVec.ofNat 3 ((n.toNat + 5) % 8))) 8 ∧
    (keySchedule key).word .ko3 n = rol16 (keyWord key (BitVec.ofNat 3 ((n.toNat + 6) % 8))) 13 ∧
    (keySchedule key).word .ki1 n = keyWord' key (BitVec.ofNat 3 ((n.toNat + 4) % 8)) ∧
    (keySchedule key).word .ki2 n = keyWord' key (BitVec.ofNat 3 ((n.toNat + 3) % 8)) ∧
    (keySchedule key).word .ki3 n = keyWord' key (BitVec.ofNat 3 ((n.toNat + 7) % 8)))

/-- 42_fi.md R66: both tables are permutations. -/
def Obligations.TablesArePermutations : Prop :=
  (∀ v : BitVec 7, ∃! i : BitVec 7, s7 i = v) ∧ (∀ v : BitVec 9, ∃! i : BitVec 9, s9 i = v)

/-- 42_fi.md R67: FI step by step, and its worked trace for (0, 0). -/
def Obligations.FiFollowsItsSteps : Prop :=
  (∀ x k : Word, ∀ (nine0 nine1 nine2 nine3 : BitVec 9) (seven0 seven1 seven2 seven3 : BitVec 7),
    nine0 = x.extractLsb' 7 9 → seven0 = x.extractLsb' 0 7 →
    nine1 = s9 nine0 ^^^ seven0.setWidth 9 → seven1 = s7 seven0 ^^^ nine1.extractLsb' 0 7 →
    seven2 = seven1 ^^^ k.extractLsb' 9 7 → nine2 = nine1 ^^^ k.extractLsb' 0 9 →
    nine3 = s9 nine2 ^^^ seven2.setWidth 9 → seven3 = s7 seven2 ^^^ nine3.extractLsb' 0 7 →
    fi x k = seven3 ++ nine3) ∧
  s9 0 = 167 ∧ s7 0 ^^^ (167#9).extractLsb' 0 7 = 17 ∧ s9 167 ^^^ (17#7).setWidth 9 = 9 ∧
  s7 17 ^^^ (9#9).extractLsb' 0 7 = 120 ∧ fi 0x0000 0x0000 = 0xF009

/-- 42_fi.md R68: FI is a bijection for every fixed subkey. -/
def Obligations.FiIsABijection : Prop :=
  ∀ k : Word, Function.Bijective fun x : Word => fi x k

/-- 43_fo_fl.md R70: FO step by step. -/
def Obligations.FoFollowsItsSteps : Prop :=
  ∀ (sk : SubkeySet) (n : RIdx) (x : Half) (l r : Word), x = l ++ r →
    ∀ l1 r1 l2 : Word,
      l1 = fi (l ^^^ sk.word .ko1 n) (sk.word .ki1 n) ^^^ r →
      r1 = fi (r ^^^ sk.word .ko2 n) (sk.word .ki2 n) ^^^ l1 →
      l2 = fi (l1 ^^^ sk.word .ko3 n) (sk.word .ki3 n) ^^^ r1 →
      fo sk n x = r1 ++ l2

/-- 43_fo_fl.md R71: FO is a bijection for a fixed slot and index. -/
def Obligations.FoIsABijection : Prop :=
  ∀ (sk : SubkeySet) (n : RIdx), Function.Bijective (fo sk n)

/-- 43_fo_fl.md R72: FL step by step. -/
def Obligations.FlFollowsItsSteps : Prop :=
  ∀ (sk : SubkeySet) (n : RIdx) (x : Half) (l r : Word), x = l ++ r →
    ∀ a r1 b l1 : Word,
      a = l &&& sk.word .kl1 n → r1 = r ^^^ rol16 a 1 →
      b = r1 ||| sk.word .kl2 n → l1 = l ^^^ rol16 b 1 →
      fl sk n x = l1 ++ r1

/-- 43_fo_fl.md R73: FL is a bijection for a fixed slot and index. -/
def Obligations.FlIsABijection : Prop :=
  ∀ (sk : SubkeySet) (n : RIdx), Function.Bijective (fl sk n)

/-- 44_kasumi.md R76 to R80: the eight rounds written out. -/
def Obligations.KasumiRunsTheEightRounds : Prop :=
  ∀ (sk : SubkeySet) (left right : Half) (r0 l1 r2 l3 r4 l5 r6 l7 : Half),
    r0 = right ^^^ fo sk 0 (fl sk 0 left) →
    l1 = left ^^^ fl sk 1 (fo sk 1 r0) →
    r2 = r0 ^^^ fo sk 2 (fl sk 2 l1) →
    l3 = l1 ^^^ fl sk 3 (fo sk 3 r2) →
    r4 = r2 ^^^ fo sk 4 (fl sk 4 l3) →
    l5 = l3 ^^^ fl sk 5 (fo sk 5 r4) →
    r6 = r4 ^^^ fo sk 6 (fl sk 6 l5) →
    l7 = l5 ^^^ fl sk 7 (fo sk 7 r6) →
    kasumi sk (left ++ right) = l7 ++ r6

/-- 44_kasumi.md R82, its first two sentences: KASUMI is a bijection on blocks for a fixed subkey set. -/
def Obligations.KasumiIsABijection : Prop :=
  ∀ sk : SubkeySet, Function.Bijective (kasumi sk)

/-- 44_kasumi.md R81: KASUMI answers a function of the block and the 64 words of the slot; so two slots loaded with the
same key give the same result, whatever the states were before. -/
def Obligations.KasumiDependsOnBlockAndSubkeysOnly : Prop :=
  (∀ (s s' : State) (slot slot' : SlotNo) (sl sl' : Slot) (block : Block),
    s.slot slot = some sl → sl.kv = true → s'.slot slot' = some sl' → sl'.kv = true →
    (∀ (role : Role) (n : RIdx), sl.sk.word role n = sl'.sk.word role n) →
    ∃ d : BitVec 64, exec (.kasumi slot block) s = .next (s.respond .ok d) ∧
      exec (.kasumi slot' block) s' = .next (s'.respond .ok d)) ∧
  (∀ (s s' : State) (slot slot' : SlotNo) (key : Key) (block : Block),
    slot.toNat < s.numSlots → slot'.toNat < s'.numSlots →
    ∃ (t t' : State) (d : BitVec 64),
      exec (.loadkey slot key) s = .next t ∧ exec (.kasumi slot block) t = .next (t.respond .ok d) ∧
      exec (.loadkey slot' key) s' = .next t' ∧ exec (.kasumi slot' block) t' = .next (t'.respond .ok d))

/-! ## The commands -/

/-- 41_key_schedule.md R61, LOADKEY. -/
def Obligations.LoadkeyFollowsItsRule : Prop :=
  (∀ (s : State) (slot : SlotNo) (key : Key), slot.toNat < s.numSlots →
    ∃ t : State, exec (.loadkey slot key) s = .next t ∧
      (∃ sl, t.slot slot = some sl ∧ sl.kv = true ∧
        ∀ (role : Role) (n : RIdx), sl.sk.word role n = (keySchedule key).word role n) ∧
      (∀ j : Nat, j ≠ slot.toNat → t.slots[j]? = s.slots[j]?) ∧
      t.numSlots = s.numSlots ∧
      t = { s with slots := t.slots, pending := s.pending ++ [⟨.ok, 0⟩] } ∧
      ∃ u : State, exec (.loadkey slot key) t = .next u ∧ u = { t with pending := t.pending ++ [⟨.ok, 0⟩] }) ∧
  (∀ (s : State) (slot : SlotNo) (key : Key), s.numSlots ≤ slot.toNat →
    exec (.loadkey slot key) s = .next (s.raise .eSlot)) ∧
  (∀ (s : State) (c : Command), c.op = 0x1 → (c.ridx ≠ 0 ∨ c.clr ≠ 0 ∨ c.rsvd ≠ 0) →
    runCommand c s = .next (s.raise .eReserved)) ∧
  (∀ (s : State) (e : Status), (s.raise e).slots = s.slots) ∧
  (∀ (slot : SlotNo) (key : Key), encode (.loadkey slot key) = ⟨0x00000001 ||| (slot.setWidth 32 <<< 4), key⟩) ∧
  (∀ n : RIdx, keyWord' 0 n = scheduleConstant n ∧ (keySchedule 0).word .kl1 n = 0 ∧ (keySchedule 0).word .ko1 n = 0 ∧
    (keySchedule 0).word .ko2 n = 0 ∧ (keySchedule 0).word .ko3 n = 0) ∧
  (∃ t : State, exec (.loadkey 0 0x2BD6459F82C5B300952C49104881FF48) State.reset = .next t ∧
    t.pending = [⟨.ok, 0⟩] ∧
    ∃ sl, t.slot 0 = some sl ∧ sl.kv = true ∧
      sl.sk.kl1.toList = [0x57AC, 0x8B3E, 0x058B, 0x6601, 0x2A59, 0x9220, 0x9102, 0xFE91])

/-- 41_key_schedule.md R62, CLEARKEY. -/
def Obligations.ClearkeyFollowsItsRule : Prop :=
  (∀ (s : State) (slot : SlotNo), slot.toNat < s.numSlots →
    ∃ t : State, exec (.clearkey slot) s = .next t ∧
      (∃ sl, t.slot slot = some sl ∧ sl.kv = false ∧ ∀ (role : Role) (n : RIdx), sl.sk.word role n = 0) ∧
      (∀ j : Nat, j ≠ slot.toNat → t.slots[j]? = s.slots[j]?) ∧
      t.numSlots = s.numSlots ∧
      t = { s with slots := t.slots, pending := s.pending ++ [⟨.ok, 0⟩] } ∧
      (s.slot slot = some Slot.empty → t.slots = s.slots)) ∧
  (∀ (s : State) (slot : SlotNo), (s.slot slot).map Slot.kv = some false →
    (∀ block : Block, exec (.kasumi slot block) s = .next (s.raise .eNoKey)) ∧
    (∀ (n : RIdx) (x : Half), exec (.fo slot n x) s = .next (s.raise .eNoKey)) ∧
    (∀ (n : RIdx) (x : Half), exec (.fl slot n x) s = .next (s.raise .eNoKey)) ∧
    (∀ (i : Instr) (t : State), (∀ key : Key, i ≠ .loadkey slot key) → exec i s = .next t →
      (t.slot slot).map Slot.kv = some false)) ∧
  (∀ (s : State) (slot : SlotNo), s.numSlots ≤ slot.toNat → exec (.clearkey slot) s = .next (s.raise .eSlot)) ∧
  (∀ (s : State) (c : Command), c.op = 0x2 → (c.ridx ≠ 0 ∨ c.clr ≠ 0 ∨ c.rsvd ≠ 0) →
    runCommand c s = .next (s.raise .eReserved)) ∧
  (∀ slot : SlotNo, (encode (.clearkey slot)).word = 0x00000002 ||| (slot.setWidth 32 <<< 4)) ∧
  (∀ (slot : SlotNo) (d : BitVec 128), decode ⟨0x00000002 ||| (slot.setWidth 32 <<< 4), d⟩ = .ok (.clearkey slot)) ∧
  (∃ t u v : State, exec (.loadkey 0 0x2BD6459F82C5B300952C49104881FF48) State.reset = .next t ∧
    exec (.clearkey 0) t = .next u ∧ exec (.kasumi 0 0xEA024714AD5C4D84) u = .next v ∧
    (u.slot 0).map Slot.kv = some false ∧ v.pending = [⟨.ok, 0⟩, ⟨.ok, 0⟩, ⟨.eNoKey, 0⟩])

/-- 44_kasumi.md R83, the KASUMI command. -/
def Obligations.KasumiCommandFollowsItsRule : Prop :=
  (∀ (s : State) (slot : SlotNo) (sl : Slot) (block : Block), s.slot slot = some sl → sl.kv = true →
    exec (.kasumi slot block) s = .next { s with pending := s.pending ++ [⟨.ok, kasumi sl.sk block⟩] }) ∧
  (∀ (s : State) (slot : SlotNo) (block : Block), s.numSlots ≤ slot.toNat →
    exec (.kasumi slot block) s = .next (s.raise .eSlot)) ∧
  (∀ (s : State) (slot : SlotNo) (sl : Slot) (block : Block), s.slot slot = some sl → sl.kv = false →
    exec (.kasumi slot block) s = .next (s.raise .eNoKey)) ∧
  (∀ (s : State) (c : Command), c.op = 0x3 → (c.ridx ≠ 0 ∨ c.clr ≠ 0 ∨ c.rsvd ≠ 0) →
    runCommand c s = .next (s.raise .eReserved)) ∧
  (∀ (slot : SlotNo) (block : Block), (encode (.kasumi slot block)).word = 0x00000003 ||| (slot.setWidth 32 <<< 4)) ∧
  (∀ (slot : SlotNo) (d : BitVec 128),
    decode ⟨0x00000003 ||| (slot.setWidth 32 <<< 4), d⟩ = .ok (.kasumi slot (d.extractLsb' 0 64))) ∧
  (∀ (s : State) (slot : SlotNo) (sl : Slot) (block : Block), s.slot slot = some sl → sl.kv = true →
    ∃ (t u : State) (d : BitVec 64), exec (.kasumi slot block) s = .next t ∧ exec (.kasumi slot block) t = .next u ∧
      u.pending = s.pending ++ [⟨.ok, d⟩, ⟨.ok, d⟩]) ∧
  (∀ (s : State) (slot : SlotNo) (key : Key) (block : Block), slot.toNat < s.numSlots →
    ∃ t : State, exec (.loadkey slot key) s = .next t ∧
      exec (.kasumi slot block) t = .next (t.respond .ok (kasumi (keySchedule key) block))) ∧
  (∃ t u : State, exec (.loadkey 0 0x2BD6459F82C5B300952C49104881FF48) State.reset = .next t ∧
    exec (.kasumi 0 0xEA024714AD5C4D84) t = .next u ∧ u.pending = [⟨.ok, 0⟩, ⟨.ok, 0xDF1F9B251C0BF45F⟩])

/-- 43_fo_fl.md R74, the FO command. -/
def Obligations.FoCommandFollowsItsRule : Prop :=
  (∀ (s : State) (slot : SlotNo) (sl : Slot) (n : RIdx) (x : Half), s.slot slot = some sl → sl.kv = true →
    exec (.fo slot n x) s = .next { s with pending := s.pending ++ [⟨.ok, 0#32 ++ fo sl.sk n x⟩] }) ∧
  (∀ (s : State) (slot : SlotNo) (n : RIdx) (x : Half), s.numSlots ≤ slot.toNat →
    exec (.fo slot n x) s = .next (s.raise .eSlot)) ∧
  (∀ (s : State) (slot : SlotNo) (sl : Slot) (n : RIdx) (x : Half), s.slot slot = some sl → sl.kv = false →
    exec (.fo slot n x) s = .next (s.raise .eNoKey)) ∧
  (∀ (s : State) (c : Command), c.op = 0x4 → (c.clr ≠ 0 ∨ c.rsvd ≠ 0) →
    runCommand c s = .next (s.raise .eReserved)) ∧
  (∀ (slot : SlotNo) (n : RIdx) (x : Half),
    (encode (.fo slot n x)).word = 0x00000004 ||| (slot.setWidth 32 <<< 4) ||| (n.setWidth 32 <<< 8)) ∧
  (∀ (slot : SlotNo) (n : RIdx) (d : BitVec 128),
    decode ⟨0x00000004 ||| (slot.setWidth 32 <<< 4) ||| (n.setWidth 32 <<< 8), d⟩ =
      .ok (.fo slot n (d.extractLsb' 0 32))) ∧
  fo (keySchedule 0x2BD6459F82C5B300952C49104881FF48) 0 0 = 0x8807035B ∧
  (∃ t u : State, exec (.loadkey 0 0x2BD6459F82C5B300952C49104881FF48) State.reset = .next t ∧
    exec (.fo 0 7 0xFFFFFFFF) t = .next u ∧ u.pending = [⟨.ok, 0⟩, ⟨.ok, 0x000000005859C8C3⟩])

/-- 43_fo_fl.md R75, the FL command. -/
def Obligations.FlCommandFollowsItsRule : Prop :=
  (∀ (s : State) (slot : SlotNo) (sl : Slot) (n : RIdx) (x : Half), s.slot slot = some sl → sl.kv = true →
    exec (.fl slot n x) s = .next { s with pending := s.pending ++ [⟨.ok, 0#32 ++ fl sl.sk n x⟩] }) ∧
  (∀ (s : State) (slot : SlotNo) (n : RIdx) (x : Half), s.numSlots ≤ slot.toNat →
    exec (.fl slot n x) s = .next (s.raise .eSlot)) ∧
  (∀ (s : State) (slot : SlotNo) (sl : Slot) (n : RIdx) (x : Half), s.slot slot = some sl → sl.kv = false →
    exec (.fl slot n x) s = .next (s.raise .eNoKey)) ∧
  (∀ (s : State) (c : Command), c.op = 0x5 → (c.clr ≠ 0 ∨ c.rsvd ≠ 0) →
    runCommand c s = .next (s.raise .eReserved)) ∧
  (∀ (slot : SlotNo) (n : RIdx) (x : Half),
    (encode (.fl slot n x)).word = 0x00000005 ||| (slot.setWidth 32 <<< 4) ||| (n.setWidth 32 <<< 8)) ∧
  (∀ (slot : SlotNo) (n : RIdx) (d : BitVec 128),
    decode ⟨0x00000005 ||| (slot.setWidth 32 <<< 4) ||| (n.setWidth 32 <<< 8), d⟩ =
      .ok (.fl slot n (d.extractLsb' 0 32))) ∧
  (∀ (sk : SubkeySet) (n : RIdx), fl sk n 0 = rol16 (sk.word .kl2 n) 1 ++ 0#16) ∧
  fl (keySchedule 0) 0 0xFFFFFFFF = 0x0000FFFF ∧
  (keySchedule 0x2BD6459F82C5B300952C49104881FF48).word .kl2 0 = 0x0B6E ∧ rol16 0x0B6E 1 = 0x16DC ∧
  (∃ t u : State, exec (.loadkey 0 0x2BD6459F82C5B300952C49104881FF48) State.reset = .next t ∧
    exec (.fl 0 0 0x00000000) t = .next u ∧ u.pending = [⟨.ok, 0⟩, ⟨.ok, 0x0000000016DC0000⟩])

/-- 42_fi.md R69, the FI command. -/
def Obligations.FiCommandFollowsItsRule : Prop :=
  (∀ (s : State) (x k : Word),
    exec (.fi x k) s = .next { s with pending := s.pending ++ [⟨.ok, 0#48 ++ fi x k⟩] }) ∧
  (∀ d : BitVec 128, decode ⟨0x00000006, d⟩ = .ok (.fi (d.extractLsb' 0 16) (d.extractLsb' 16 16))) ∧
  (∀ (c : Command) (x k : Word), decode c = .ok (.fi x k) → c.word = 0x00000006) ∧
  (∀ (s : State) (c : Command), c.op = 0x6 → (c.slot ≠ 0 ∨ c.ridx ≠ 0 ∨ c.clr ≠ 0 ∨ c.rsvd ≠ 0) →
    runCommand c s = .next (s.raise .eReserved)) ∧
  (∀ x : Word, fi x 0 = fiJoin (fiRound (fiRound (fiSplit x)))) ∧
  fi 0 0 = 0xF009 ∧
  (∀ s : State, runCommand ⟨0x00000006, 0x000000000000000000000000ABCD1234⟩ s =
    .next (s.respond .ok 0x000000000000840F))

/-- 45_status.md R84, the STATUS command. -/
def Obligations.StatusCommandFollowsItsRule : Prop :=
  (∀ s : State, s.LegalNumSlots → ∃ w : BitVec 64,
    exec (.status false) s = .next { s with pending := s.pending ++ [⟨.ok, w⟩] } ∧
    exec (.status true) s =
      .next { s with lastErr := 0, errSticky := false, pending := s.pending ++ [⟨.ok, w⟩] } ∧
    w.extractLsb' 32 32 = 0x4B415331#32 ∧ w.extractLsb' 29 3 = 0#3 ∧
    w.extractLsb' 28 1 = BitVec.ofBool s.errSticky ∧ w.extractLsb' 24 4 = s.lastErr ∧
    w.extractLsb' 21 3 = 0#3 ∧ (w.extractLsb' 16 5).toNat = s.numSlots ∧
    ∀ i : Nat, i < 16 → w.getLsbD i = if i < s.numSlots then (s.slots[i]?.map Slot.kv).getD false else false) ∧
  (∀ (c : Command) (clr : Bool), decode c = .ok (.status clr) ↔
    c.word = if clr then 0x00000807 else 0x00000007) ∧
  (∀ (s : State) (c : Command), c.op = 0x7 → (c.slot ≠ 0 ∨ c.ridx ≠ 0 ∨ c.rsvd ≠ 0) →
    runCommand c s = .next (s.raise .eReserved)) ∧
  (∀ n : Nat, 1 ≤ n → n ≤ 16 →
    exec (.status false) (State.resetWith n) =
      .next ((State.resetWith n).respond .ok (0x4B41533100000000 ||| (BitVec.ofNat 64 n <<< 16)))) ∧
  exec (.status false) State.reset = .next (State.reset.respond .ok 0x4B41533100020000) ∧
  (∀ s : State, ∃ (t : State) (w : BitVec 64), exec (.status false) s = .next t ∧ t = s.respond .ok w ∧
    exec (.status false) t = .next (t.respond .ok w)) ∧
  (∀ (key : Key) (block : Block), ∃ t u v x : State,
    exec (.loadkey 0 key) State.reset = .next t ∧ exec (.kasumi 1 block) t = .next u ∧
    exec (.status true) u = .next v ∧ exec (.status false) v = .next x ∧
    x.pending = [⟨.ok, 0⟩, ⟨.eNoKey, 0⟩, ⟨.ok, 0x4B41533114020001⟩, ⟨.ok, 0x4B41533100020001⟩])

/-! ## Errors, the log, side effects, isolation -/

/-- 60_exceptions.md R87, with the codes of 30_encoding.md R50: what raising an error does, and that nothing else
changes. -/
def Obligations.RaiseWritesTheLogAndResponds : Prop :=
  (∀ (s : State) (e : Status),
    s.raise e = { s with lastErr := e.code, errSticky := true, pending := s.pending ++ [⟨e, 0⟩] }) ∧
  Status.code .ok = 0x0 ∧ Status.code .eOpcode = 0x1 ∧ Status.code .eReserved = 0x2 ∧
  Status.code .eSlot = 0x3 ∧ Status.code .eNoKey = 0x4

/-- 10_state.md R23: the error log after every command, and after reset. -/
def Obligations.ErrorLogFollowsTheResponses : Prop :=
  (∀ (c : Command) (s t : State), runCommand c s = .next t →
    ∃ r : Response, t.pending = s.pending ++ [r] ∧
      (r.status ≠ .ok → t.lastErr = r.status.code ∧ t.errSticky = true) ∧
      (r.status = .ok → decode c = .ok (.status true) → r.data = s.statusWord ∧ t.lastErr = 0 ∧ t.errSticky = false) ∧
      (r.status = .ok → decode c ≠ .ok (.status true) → t.lastErr = s.lastErr ∧ t.errSticky = s.errSticky)) ∧
  (∀ (s : State) (e : Edge) (rest : List Edge), s.edges = e :: rest → e.rstN = false →
    ∃ t : State, step s = .next t ∧ t.lastErr = 0 ∧ t.errSticky = false)

/-- 20_memory.md R40: what each command changes, and what repeating it does. -/
def Obligations.SideEffectsOfEachCommand : Prop :=
  (∀ (i : Instr) (s t : State) (d : BitVec 64), i.computes = true → exec i s = .next t →
    t.pending = s.pending ++ [⟨.ok, d⟩] → t = s.respond .ok d) ∧
  (∀ (i : Instr) (slot : SlotNo) (s t : State), i.writesSlot = true → i.slotOperand = some slot → exec i s = .next t →
    (∀ j : Nat, j ≠ slot.toNat → t.slots[j]? = s.slots[j]?) ∧ t.numSlots = s.numSlots ∧
    (t.pending = s.pending ++ [⟨.ok, 0⟩] → t = { s with slots := t.slots, pending := t.pending })) ∧
  (∀ s : State, exec (.status false) s = .next (s.respond .ok s.statusWord) ∧
    exec (.status true) s =
      .next { s with lastErr := 0, errSticky := false, pending := s.pending ++ [⟨.ok, s.statusWord⟩] }) ∧
  (∀ (i : Instr) (s t : State) (r : Response), exec i s = .next t → t.pending = s.pending ++ [r] → r.status ≠ .ok →
    t = s.raise r.status) ∧
  (∀ (i : Instr) (s t : State), i.isStatus = false → exec i s = .next t →
    ∃ r : Response, t.pending = s.pending ++ [r] ∧ exec i t = .next { t with pending := t.pending ++ [r] }) ∧
  (∀ s : State, ∃ (t u : State) (w : BitVec 64), exec (.status true) s = .next t ∧ exec (.status true) t = .next u ∧
    u.pending = t.pending ++ [⟨.ok, w⟩] ∧ w.extractLsb' 24 5 = 0#5)

/-- The frame of the commands that read slots or none: FI, FO, FL, KASUMI and STATUS leave every slot, every port and the
edges alone, and only errors and STATUS clr touch the log (20_memory.md R40, 10_state.md R21). -/
def Obligations.FrameOfCommandsThatWriteNoSlot : Prop :=
  ∀ (i : Instr) (s t : State), i.writesSlot = false → exec i s = .next t →
    t.slots = s.slots ∧ t.cmdReady = s.cmdReady ∧ t.rspValid = s.rspValid ∧ t.edges = s.edges ∧
    t.delivered = s.delivered ∧
    ∃ r : Response, t.pending = s.pending ++ [r] ∧
      (r.status = .ok → i ≠ .status true → t.lastErr = s.lastErr ∧ t.errSticky = s.errSticky)

/-- 10_state.md R20: only a LOADKEY, a CLEARKEY or a reset of a slot changes it, over every step of the machine, a command
being one that transfers at the step's edge (10_state.md R30). That the command changes the slot at the very edge of its
transfer is the model's choice (DEDUCED, log entry 6), and so is the edge as the step (DESIGN CHOICE, log entry 2). -/
def Obligations.SlotChangesOnlyByLoadClearOrReset : Prop :=
  ∀ (s t : State) (k : Nat), step s = .next t → t.slots[k]? ≠ s.slots[k]? →
    ∃ (e : Edge) (rest : List Edge), s.edges = e :: rest ∧
      (e.rstN = false ∨
        (s.cmdReady = true ∧ e.cmdValid = true ∧ ∃ slot : SlotNo, slot.toNat = k ∧
          ((∃ key : Key, decode e.command = .ok (.loadkey slot key)) ∨ decode e.command = .ok (.clearkey slot))))

/-- 60_exceptions.md R96: hosts on different slots cannot disturb each other. A command leaves every slot alone that it
does not name, and the answer of a command that names a slot depends on that slot only. -/
def Obligations.SlotsAreIndependent : Prop :=
  (∀ (i : Instr) (s t : State) (k : SlotNo), i.slotOperand ≠ some k → exec i s = .next t → t.slot k = s.slot k) ∧
  (∀ (i : Instr) (s s' t t' : State) (k : SlotNo), i.slotOperand = some k → s.slot k = s'.slot k →
    exec i s = .next t → exec i s' = .next t' →
    t.slot k = t'.slot k ∧
    ∃ r : Response, t.pending = s.pending ++ [r] ∧ t'.pending = s'.pending ++ [r])

/-- 10_state.md R21: no command but KASUMI, FO and FL has an answer or an effect on the log that depends on a subkey word
at all, and of those three neither the status of the answer nor the log does. -/
def Obligations.SubkeysShowOnlyInCipherResults : Prop :=
  ∀ (i : Instr) (s s' t t' : State), s.SameButSubkeys s' → exec i s = .next t → exec i s' = .next t' →
    t.lastErr = t'.lastErr ∧ t.errSticky = t'.errSticky ∧
    t.slots.map Slot.kv = t'.slots.map Slot.kv ∧
    ∃ r r' : Response, t.pending = s.pending ++ [r] ∧ t'.pending = s'.pending ++ [r'] ∧ r.status = r'.status ∧
      ((∀ slot block, i ≠ .kasumi slot block) → (∀ slot n x, i ≠ .fo slot n x) → (∀ slot n x, i ≠ .fl slot n x) →
        r = r')

/-! ## Reset, the ports, the step -/

/-- 10_state.md R31, the values the spec gives, for every legal number of slots. (The model's own choices at reset,
`cmd_ready` and the fields for the outside world, are not stated: log entries 2 and 3.) -/
def Obligations.ResetStateHasTheSpecsValues : Prop :=
  ∀ n : Nat, 1 ≤ n → n ≤ 16 →
    (State.resetWith n).numSlots = n ∧
    (∀ k : SlotNo, k.toNat < n → ∃ sl, (State.resetWith n).slot k = some sl ∧ sl.kv = false ∧
      ∀ (role : Role) (m : RIdx), sl.sk.word role m = 0) ∧
    (State.resetWith n).lastErr = 0 ∧ (State.resetWith n).errSticky = false ∧
    (State.resetWith n).statusWord = 0x4B41533100000000 ||| (BitVec.ofNat 64 n <<< 16) ∧
    (State.resetWith n).pending = [] ∧ (State.resetWith n).rspValid = false

/-- The state after reset meets the invariant, for every legal number of slots, and State.reset is the one with the
spec's default of 2. -/
def Obligations.ResetMeetsTheInvariant : Prop :=
  (∀ n : Nat, 1 ≤ n → n ≤ 16 → (State.resetWith n).Inv ∧ (State.resetWith n).KeyedSlotsDerived) ∧
  State.reset = State.resetWith 2

/-- Every step keeps the invariant: the log is consistent and never 5 to 15, a slot without a key holds zeros, an error
response carries data 0, `rsp_valid` is 1 only with a response waiting, and the number of slots stays legal. -/
def Obligations.StepKeepsTheInvariant : Prop :=
  ∀ s t : State, s.Inv → step s = .next t → t.Inv

/-- Every step keeps this: a slot whose KV is 1 holds exactly the subkey set that the key schedule derives from some key
(10_state.md R22). -/
def Obligations.StepKeepsKeyedSlotsDerived : Prop :=
  ∀ s t : State, s.KeyedSlotsDerived → step s = .next t → t.KeyedSlotsDerived

/-- No step stops the machine, and none changes the number of slots (60_exceptions.md R90, R91, 00_scope.md R7). -/
def Obligations.StepNeverStops : Prop :=
  ∀ s : State, ∃ t : State, step s = .next t ∧ t.numSlots = s.numSlots

/-- 70_reset_and_hazards.md R99 and R100, with the values of 10_state.md R31: an edge with rst_n = 0 discards every command
in flight and leaves the reset state; no command offered at that edge is accepted and no response is delivered. That reset
is an edge, and that the responses delivered before it stay delivered, is the model's choice (DEDUCED, log entry 7), and so
is the list of edges (DESIGN CHOICE, log entry 2). -/
def Obligations.ResetDiscardsCommandsInFlight : Prop :=
  ∀ (s : State) (e : Edge) (rest : List Edge), s.edges = e :: rest → e.rstN = false →
    ∃ t : State, step s = .next t ∧
      t.slots = List.replicate s.numSlots Slot.empty ∧ t.lastErr = 0 ∧ t.errSticky = false ∧
      t.pending = [] ∧ t.rspValid = false ∧ t.delivered = s.delivered ∧ t.edges = rest

/-- A step runs the decoded instruction: at an edge at which a command transfers (10_state.md R30), the step is exec of
the decoded instruction on the state after the response channel's part of the edge, with the outputs driven after it. That
the response channel's part comes first, and that the command takes its whole effect at the edge of its transfer, is the
model's choice (DEDUCED, log entry 6), and so are the edges and the outputs that each names (DESIGN CHOICE, log entry 2). -/
def Obligations.StepRunsTheDecodedInstruction : Prop :=
  ∀ (s : State) (e : Edge) (rest : List Edge) (i : Instr),
    s.edges = e :: rest → e.rstN = true → s.cmdReady = true → e.cmdValid = true → decode e.command = .ok i →
    step s = driveAfter e (exec i ((s.withEdges rest).responseEdge e)) ∧
    ∀ t : State, exec i ((s.withEdges rest).responseEdge e) = .next t →
      step s = .next (t.driveOutputs e)

/-- A step on a command word that the decoder refuses raises its error: E_OPCODE or E_RESERVED (30_encoding.md R52). That
the error is raised on the state after the response channel's part of the edge, at the edge of the transfer, with the
outputs driven after it, is the model's choice (DEDUCED, log entry 6), and so are the edges and the outputs that each names
(DESIGN CHOICE, log entry 2). -/
def Obligations.StepRaisesTheDecodersError : Prop :=
  ∀ (s : State) (e : Edge) (rest : List Edge),
    s.edges = e :: rest → e.rstN = true → s.cmdReady = true → e.cmdValid = true →
    (decode e.command = .error .opcode →
      step s = .next ((((s.withEdges rest).responseEdge e).raise .eOpcode).driveOutputs e)) ∧
    (decode e.command = .error .reserved →
      step s = .next ((((s.withEdges rest).responseEdge e).raise .eReserved).driveOutputs e))

/-- The core is idle when no command transfers. With no edge to come the step changes nothing (60_exceptions.md R98; that the
step is then the identity is the model's choice, DESIGN CHOICE, log entry 2). At an edge at which no command transfers,
since cmd_valid or cmd_ready is 0, no response joins or leaves the sequence of responses delivered and in flight
(10_state.md R30), and slots and log stay. That nothing of an earlier command lands at such an edge is the model's choice
(DEDUCED, log entry 6). -/
def Obligations.IdleCoreKeepsItsState : Prop :=
  (∀ s : State, s.edges = [] → step s = .next s) ∧
  (∀ (s : State) (e : Edge) (rest : List Edge), s.edges = e :: rest → e.rstN = true →
    (e.cmdValid = false ∨ s.cmdReady = false) →
    ∃ t : State, step s = .next t ∧ t.slots = s.slots ∧ t.lastErr = s.lastErr ∧ t.errSticky = s.errSticky ∧
      t.edges = rest ∧ t.delivered ++ t.pending = s.delivered ++ s.pending)

/-- A response that has not transferred stays the oldest, whatever command transfers meanwhile: while rsp_valid is 1,
rsp_status and rsp_data show the response they showed before (10_state.md R30). -/
def Obligations.OfferedResponseIsHeldStable : Prop :=
  ∀ (s : State) (e : Edge) (rest : List Edge) (r : Response),
    s.edges = e :: rest → e.rstN = true → e.rspReady = false → s.rspPort = some r →
    ∃ t : State, step s = .next t ∧ t.pending.head? = some r ∧ (t.rspValid = true → t.rspPort = some r)

/-- Every transferred command produces exactly one response, and responses come in the order the commands transferred: at
an edge without reset the sequence of responses delivered and in flight gains exactly one at its end if a command
transfers and none otherwise, and what the host gains is the oldest (10_state.md R30). That the response joins the sequence
at the edge of the transfer, and after the response channel's part of the edge, is the model's choice (DEDUCED, log entry
6), and so is the edge as the step (DESIGN CHOICE, log entry 2). -/
def Obligations.OneResponsePerCommandInOrder : Prop :=
  ∀ (s : State) (e : Edge) (rest : List Edge), s.edges = e :: rest → e.rstN = true →
    ∃ (t : State) (new : List Response), step s = .next t ∧ t.edges = rest ∧
      t.delivered ++ t.pending = s.delivered ++ s.pending ++ new ∧
      new.length = (if s.cmdReady = true ∧ e.cmdValid = true then 1 else 0) ∧
      t.delivered = s.delivered ++ (if s.rspValid = true ∧ e.rspReady = true then s.pending.take 1 else [])

/-- A run over the edges the outside world supplies takes one step an edge, never stops, and ends with no edge left. (That
the edges stand in the state is the model's choice, log entry 2. This is not yet the end of a run of commands in the sense
of 70_reset_and_hazards.md R108, which `State.RunEnded` says.) -/
def Obligations.RunConsumesEveryEdge : Prop :=
  ∀ s : State, ∃ t : State, Host.Core.run Sys2Proof.core s.edges.length s = .next t ∧ t.edges = []

/-! ## Runs of command sequences -/

/-- 70_reset_and_hazards.md R108, the end state of a run that has ended: slots and log are those after the last command's
step at transaction level (20_memory.md R41), and the responses delivered are those of the commands, in order. So two runs
of one command sequence that have ended, from states that agree on slots, log and responses, end alike, whatever their
lengths and whatever the ports did between transfers. (That a run has no reset in it, and that its steps are edges of which
each names the core's free choices, are the model's choices: log entries 9 and 2.) -/
def Obligations.EndedRunIsTheRunAtTransactionLevel : Prop :=
  (∀ (s t : State) (n : Nat) (cmds : List Command), s.RunEnded n cmds t →
    ∃ u : State, runCommands cmds s = .next u ∧ t.SameArchitectural u ∧
      t.delivered = s.delivered ++ u.pending ∧ t.pending = []) ∧
  (∀ (s t s' t' : State) (n n' : Nat) (cmds : List Command),
    s.SameArchitectural s' → s.delivered = s'.delivered → s.pending = s'.pending →
    s.RunEnded n cmds t → s'.RunEnded n' cmds t' →
    t.SameArchitectural t' ∧ t.delivered = t'.delivered ∧ t.pending = t'.pending)

/-- 70_reset_and_hazards.md R107, liveness: in a run over fair edges (reset not asserted, the host raising `rsp_ready`
again and again, and the core offering what waits: the fairness assumption, whose form is the model's choice, log entry 8)
the responses of all commands that have transferred are delivered after finitely many edges, in order, and with no further
command transferring the run of those commands has then ended. -/
def Obligations.EveryTransferredCommandIsAnswered : Prop :=
  ∀ (s t : State) (es : Nat → Edge) (n : Nat), Fair es → (s.fed es n).RunsTo n t →
    (∃ (m : Nat) (u : State), n ≤ m ∧ (s.fed es m).RunsTo m u ∧ (t.delivered ++ t.pending) <+: u.delivered) ∧
    ((∀ k : Nat, n ≤ k → (es k).cmdValid = false) →
      ∃ (m : Nat) (u : State), n ≤ m ∧ (s.fed es m).RunEnded m ((s.fed es n).transfers n) u)

/-- Every command sequence has a run that ends (70_reset_and_hazards.md R108), from every state: there are edges without
reset at which exactly its commands transfer and every response is delivered. (The edges are the model's choice, log entry
2.) -/
def Obligations.EveryCommandSequenceHasARunThatEnds : Prop :=
  ∀ (s : State) (cmds : List Command), ∃ (es : List Edge) (t : State), (s.withEdges es).RunEnded es.length cmds t
end

