-- ==== Sys2Proof/Laws/State.lean ====
section
/-! SUPPORT. One lemma per field of State per update: what each named operation writes and what it leaves alone. -/

namespace Sys2Proof.Machine

@[simp] theorem State.writeSlot_slots (s : State) (k : SlotNo) (sl : Slot) :
    (s.writeSlot k sl).slots = s.slots.set k.toNat sl := rfl

@[simp] theorem State.writeSlot_lastErr (s : State) (k : SlotNo) (sl : Slot) :
    (s.writeSlot k sl).lastErr = s.lastErr := rfl

@[simp] theorem State.writeSlot_errSticky (s : State) (k : SlotNo) (sl : Slot) :
    (s.writeSlot k sl).errSticky = s.errSticky := rfl

@[simp] theorem State.writeSlot_pending (s : State) (k : SlotNo) (sl : Slot) :
    (s.writeSlot k sl).pending = s.pending := rfl

@[simp] theorem State.writeSlot_cmdReady (s : State) (k : SlotNo) (sl : Slot) :
    (s.writeSlot k sl).cmdReady = s.cmdReady := rfl

@[simp] theorem State.writeSlot_rspValid (s : State) (k : SlotNo) (sl : Slot) :
    (s.writeSlot k sl).rspValid = s.rspValid := rfl

@[simp] theorem State.writeSlot_edges (s : State) (k : SlotNo) (sl : Slot) :
    (s.writeSlot k sl).edges = s.edges := rfl

@[simp] theorem State.writeSlot_delivered (s : State) (k : SlotNo) (sl : Slot) :
    (s.writeSlot k sl).delivered = s.delivered := rfl

@[simp] theorem State.respond_slots (s : State) (st : Status) (d : BitVec 64) :
    (s.respond st d).slots = s.slots := rfl

@[simp] theorem State.respond_lastErr (s : State) (st : Status) (d : BitVec 64) :
    (s.respond st d).lastErr = s.lastErr := rfl

@[simp] theorem State.respond_errSticky (s : State) (st : Status) (d : BitVec 64) :
    (s.respond st d).errSticky = s.errSticky := rfl

@[simp] theorem State.respond_pending (s : State) (st : Status) (d : BitVec 64) :
    (s.respond st d).pending = s.pending ++ [⟨st, d⟩] := rfl

@[simp] theorem State.respond_cmdReady (s : State) (st : Status) (d : BitVec 64) :
    (s.respond st d).cmdReady = s.cmdReady := rfl

@[simp] theorem State.respond_rspValid (s : State) (st : Status) (d : BitVec 64) :
    (s.respond st d).rspValid = s.rspValid := rfl

@[simp] theorem State.respond_edges (s : State) (st : Status) (d : BitVec 64) :
    (s.respond st d).edges = s.edges := rfl

@[simp] theorem State.respond_delivered (s : State) (st : Status) (d : BitVec 64) :
    (s.respond st d).delivered = s.delivered := rfl

@[simp] theorem State.logError_slots (s : State) (e : Status) :
    (s.logError e).slots = s.slots := rfl

@[simp] theorem State.logError_lastErr (s : State) (e : Status) :
    (s.logError e).lastErr = e.code := rfl

@[simp] theorem State.logError_errSticky (s : State) (e : Status) :
    (s.logError e).errSticky = true := rfl

@[simp] theorem State.logError_pending (s : State) (e : Status) :
    (s.logError e).pending = s.pending := rfl

@[simp] theorem State.logError_cmdReady (s : State) (e : Status) :
    (s.logError e).cmdReady = s.cmdReady := rfl

@[simp] theorem State.logError_rspValid (s : State) (e : Status) :
    (s.logError e).rspValid = s.rspValid := rfl

@[simp] theorem State.logError_edges (s : State) (e : Status) :
    (s.logError e).edges = s.edges := rfl

@[simp] theorem State.logError_delivered (s : State) (e : Status) :
    (s.logError e).delivered = s.delivered := rfl

@[simp] theorem State.clearLog_slots (s : State) :
    (s.clearLog).slots = s.slots := rfl

@[simp] theorem State.clearLog_lastErr (s : State) :
    (s.clearLog).lastErr = 0 := rfl

@[simp] theorem State.clearLog_errSticky (s : State) :
    (s.clearLog).errSticky = false := rfl

@[simp] theorem State.clearLog_pending (s : State) :
    (s.clearLog).pending = s.pending := rfl

@[simp] theorem State.clearLog_cmdReady (s : State) :
    (s.clearLog).cmdReady = s.cmdReady := rfl

@[simp] theorem State.clearLog_rspValid (s : State) :
    (s.clearLog).rspValid = s.rspValid := rfl

@[simp] theorem State.clearLog_edges (s : State) :
    (s.clearLog).edges = s.edges := rfl

@[simp] theorem State.clearLog_delivered (s : State) :
    (s.clearLog).delivered = s.delivered := rfl

@[simp] theorem State.raise_slots (s : State) (e : Status) :
    (s.raise e).slots = s.slots := rfl

@[simp] theorem State.raise_lastErr (s : State) (e : Status) :
    (s.raise e).lastErr = e.code := rfl

@[simp] theorem State.raise_errSticky (s : State) (e : Status) :
    (s.raise e).errSticky = true := rfl

@[simp] theorem State.raise_pending (s : State) (e : Status) :
    (s.raise e).pending = s.pending ++ [⟨e, 0⟩] := rfl

@[simp] theorem State.raise_cmdReady (s : State) (e : Status) :
    (s.raise e).cmdReady = s.cmdReady := rfl

@[simp] theorem State.raise_rspValid (s : State) (e : Status) :
    (s.raise e).rspValid = s.rspValid := rfl

@[simp] theorem State.raise_edges (s : State) (e : Status) :
    (s.raise e).edges = s.edges := rfl

@[simp] theorem State.raise_delivered (s : State) (e : Status) :
    (s.raise e).delivered = s.delivered := rfl

@[simp] theorem State.driveOutputs_slots (s : State) (e : Edge) :
    (s.driveOutputs e).slots = s.slots := rfl

@[simp] theorem State.driveOutputs_lastErr (s : State) (e : Edge) :
    (s.driveOutputs e).lastErr = s.lastErr := rfl

@[simp] theorem State.driveOutputs_errSticky (s : State) (e : Edge) :
    (s.driveOutputs e).errSticky = s.errSticky := rfl

@[simp] theorem State.driveOutputs_pending (s : State) (e : Edge) :
    (s.driveOutputs e).pending = s.pending := rfl

@[simp] theorem State.driveOutputs_cmdReady (s : State) (e : Edge) :
    (s.driveOutputs e).cmdReady = e.cmdReadyNext := rfl

@[simp] theorem State.driveOutputs_rspValid (s : State) (e : Edge) :
    (s.driveOutputs e).rspValid = (!s.pending.isEmpty && e.rspOffer) := rfl

@[simp] theorem State.driveOutputs_edges (s : State) (e : Edge) :
    (s.driveOutputs e).edges = s.edges := rfl

@[simp] theorem State.driveOutputs_delivered (s : State) (e : Edge) :
    (s.driveOutputs e).delivered = s.delivered := rfl

@[simp] theorem State.resetEdge_slots (s : State) (e : Edge) :
    (s.resetEdge e).slots = List.replicate s.numSlots Slot.empty := rfl

@[simp] theorem State.resetEdge_lastErr (s : State) (e : Edge) :
    (s.resetEdge e).lastErr = 0 := rfl

@[simp] theorem State.resetEdge_errSticky (s : State) (e : Edge) :
    (s.resetEdge e).errSticky = false := rfl

@[simp] theorem State.resetEdge_pending (s : State) (e : Edge) :
    (s.resetEdge e).pending = [] := rfl

@[simp] theorem State.resetEdge_cmdReady (s : State) (e : Edge) :
    (s.resetEdge e).cmdReady = e.cmdReadyNext := rfl

@[simp] theorem State.resetEdge_rspValid (s : State) (e : Edge) :
    (s.resetEdge e).rspValid = false := rfl

@[simp] theorem State.resetEdge_edges (s : State) (e : Edge) :
    (s.resetEdge e).edges = s.edges := rfl

@[simp] theorem State.resetEdge_delivered (s : State) (e : Edge) :
    (s.resetEdge e).delivered = s.delivered := rfl

@[simp] theorem State.withEdges_slots (s : State) (rest : List Edge) :
    (s.withEdges rest).slots = s.slots := rfl

@[simp] theorem State.withEdges_lastErr (s : State) (rest : List Edge) :
    (s.withEdges rest).lastErr = s.lastErr := rfl

@[simp] theorem State.withEdges_errSticky (s : State) (rest : List Edge) :
    (s.withEdges rest).errSticky = s.errSticky := rfl

@[simp] theorem State.withEdges_pending (s : State) (rest : List Edge) :
    (s.withEdges rest).pending = s.pending := rfl

@[simp] theorem State.withEdges_cmdReady (s : State) (rest : List Edge) :
    (s.withEdges rest).cmdReady = s.cmdReady := rfl

@[simp] theorem State.withEdges_rspValid (s : State) (rest : List Edge) :
    (s.withEdges rest).rspValid = s.rspValid := rfl

@[simp] theorem State.withEdges_edges (s : State) (rest : List Edge) :
    (s.withEdges rest).edges = rest := rfl

@[simp] theorem State.withEdges_delivered (s : State) (rest : List Edge) :
    (s.withEdges rest).delivered = s.delivered := rfl

@[simp] theorem State.withEdges_numSlots (s : State) (rest : List Edge) :
    (s.withEdges rest).numSlots = s.numSlots := rfl

@[simp] theorem State.withEdges_responseTransfers (s : State) (rest : List Edge) (e : Edge) :
    (s.withEdges rest).responseTransfers e = s.responseTransfers e := rfl

@[simp] theorem State.withEdges_commandTransfers (s : State) (rest : List Edge) (e : Edge) :
    (s.withEdges rest).commandTransfers e = s.commandTransfers e := rfl

@[simp] theorem State.deliver_slots (s : State) : s.deliver.slots = s.slots := by
  unfold State.deliver; split <;> rfl

@[simp] theorem State.deliver_lastErr (s : State) : s.deliver.lastErr = s.lastErr := by
  unfold State.deliver; split <;> rfl

@[simp] theorem State.deliver_errSticky (s : State) : s.deliver.errSticky = s.errSticky := by
  unfold State.deliver; split <;> rfl

@[simp] theorem State.deliver_cmdReady (s : State) : s.deliver.cmdReady = s.cmdReady := by
  unfold State.deliver; split <;> rfl

@[simp] theorem State.deliver_edges (s : State) : s.deliver.edges = s.edges := by
  unfold State.deliver; split <;> rfl

@[simp] theorem State.deliver_pending (s : State) : s.deliver.pending = s.pending.tail := by
  unfold State.deliver; split <;> simp [*]

@[simp] theorem State.deliver_delivered (s : State) :
    s.deliver.delivered = s.delivered ++ s.pending.take 1 := by
  unfold State.deliver; split <;> simp [*]

@[simp] theorem State.deliver_rspValid (s : State) : s.deliver.rspValid = s.rspValid := by
  unfold State.deliver; split <;> rfl

@[simp] theorem State.responseEdge_slots (s : State) (e : Edge) : (s.responseEdge e).slots = s.slots := by
  unfold State.responseEdge; split <;> simp

@[simp] theorem State.responseEdge_lastErr (s : State) (e : Edge) : (s.responseEdge e).lastErr = s.lastErr := by
  unfold State.responseEdge; split <;> simp

@[simp] theorem State.responseEdge_errSticky (s : State) (e : Edge) : (s.responseEdge e).errSticky = s.errSticky := by
  unfold State.responseEdge; split <;> simp

@[simp] theorem State.responseEdge_cmdReady (s : State) (e : Edge) : (s.responseEdge e).cmdReady = s.cmdReady := by
  unfold State.responseEdge; split <;> simp

@[simp] theorem State.responseEdge_edges (s : State) (e : Edge) : (s.responseEdge e).edges = s.edges := by
  unfold State.responseEdge; split <;> simp

@[simp] theorem State.responseEdge_rspValid (s : State) (e : Edge) : (s.responseEdge e).rspValid = s.rspValid := by
  unfold State.responseEdge; split <;> simp

/-- The response channel loses its oldest response exactly if that response transfers. -/
theorem State.responseEdge_pending (s : State) (e : Edge) :
    (s.responseEdge e).pending = if s.responseTransfers e then s.pending.tail else s.pending := by
  unfold State.responseEdge; split <;> simp

/-- The host gains the oldest response exactly if that response transfers. -/
theorem State.responseEdge_delivered (s : State) (e : Edge) :
    (s.responseEdge e).delivered = if s.responseTransfers e then s.delivered ++ s.pending.take 1 else s.delivered := by
  unfold State.responseEdge; split <;> simp

@[simp] theorem State.resetWith_slots (n : Nat) : (State.resetWith n).slots = List.replicate n Slot.empty := rfl

@[simp] theorem State.resetWith_numSlots (n : Nat) : (State.resetWith n).numSlots = n := by
  simp [State.numSlots]

@[simp] theorem State.writeSlot_numSlots (s : State) (k : SlotNo) (sl : Slot) :
    (s.writeSlot k sl).numSlots = s.numSlots := by
  simp [State.numSlots]

@[simp] theorem State.respond_numSlots (s : State) (st : Status) (d : BitVec 64) :
    (s.respond st d).numSlots = s.numSlots := rfl

@[simp] theorem State.raise_numSlots (s : State) (e : Status) : (s.raise e).numSlots = s.numSlots := rfl

@[simp] theorem State.clearLog_numSlots (s : State) : s.clearLog.numSlots = s.numSlots := rfl

@[simp] theorem State.driveOutputs_numSlots (s : State) (e : Edge) :
    (s.driveOutputs e).numSlots = s.numSlots := rfl

@[simp] theorem State.responseEdge_numSlots (s : State) (e : Edge) :
    (s.responseEdge e).numSlots = s.numSlots := by
  simp [State.numSlots]

@[simp] theorem State.resetEdge_numSlots (s : State) (e : Edge) : (s.resetEdge e).numSlots = s.numSlots := by
  simp [State.numSlots]

end Sys2Proof.Machine
end

