-- ==== Sys2Proof/Laws/Ops.lean ====
section
/-! SUPPORT. What each shared operation can do, said once: the subkey file, the two guarded forms of a command, the
error response and the status word. -/

namespace Sys2Proof.Machine

/-- A tabulated subkey set reads back as the function it was made from. -/
@[simp] theorem SubkeySet.word_tabulate (f : Role → RIdx → Word) (role : Role) (n : RIdx) :
    (SubkeySet.tabulate f).word role n = f role n := by
  cases role <;> simp [SubkeySet.word, SubkeySet.tabulate]

@[simp] theorem SubkeySet.word_zero (role : Role) (n : RIdx) : SubkeySet.zero.word role n = 0 := by
  cases role <;> simp [SubkeySet.word, SubkeySet.zero]

/-- Two subkey sets with the same 64 words are equal. -/
theorem SubkeySet.ext_word {a b : SubkeySet} (h : ∀ (role : Role) (n : RIdx), a.word role n = b.word role n) : a = b := by
  have key : ∀ (v w : Vector Word 8), (∀ n : RIdx, v[n.toNat]'n.isLt = w[n.toNat]'n.isLt) → v = w := fun v w hv => by
    ext i hi : 1
    exact hv (BitVec.ofNatLT i hi)
  obtain ⟨a1, a2, a3, a4, a5, a6, a7, a8⟩ := a
  obtain ⟨b1, b2, b3, b4, b5, b6, b7, b8⟩ := b
  rw [SubkeySet.mk.injEq]
  exact ⟨key _ _ (h .kl1), key _ _ (h .kl2), key _ _ (h .ko1), key _ _ (h .ko2), key _ _ (h .ko3), key _ _ (h .ki1),
    key _ _ (h .ki2), key _ _ (h .ki3)⟩

/-- A slot exists exactly below NUM_SLOTS. -/
theorem State.slot_eq_none_iff (s : State) (k : SlotNo) : s.slot k = none ↔ s.numSlots ≤ k.toNat := by
  simp [State.slot, State.numSlots]

theorem State.slot_isSome_iff (s : State) (k : SlotNo) : (∃ sl, s.slot k = some sl) ↔ k.toNat < s.numSlots := by
  simp [State.slot, State.numSlots, List.getElem?_eq_some_iff]

/-- A slot of the subkey file is an element of the list of slots. -/
theorem State.slot_mem {s : State} {k : SlotNo} {sl : Slot} (h : s.slot k = some sl) : sl ∈ s.slots :=
  List.mem_of_getElem? h

/-- Reading the slot just written. -/
theorem State.writeSlot_slot_self (s : State) (k : SlotNo) (sl : Slot) (h : k.toNat < s.numSlots) :
    (s.writeSlot k sl).slot k = some sl := by
  simpa [State.slot] using List.getElem?_set_self h

/-- Writing a slot leaves every other slot alone. -/
theorem State.writeSlot_slots_other (s : State) (k : SlotNo) (sl : Slot) (j : Nat) (h : j ≠ k.toNat) :
    (s.writeSlot k sl).slots[j]? = s.slots[j]? := by
  simp [List.getElem?_set_ne (Ne.symm h)]

/-- A slot of the file after a write is the one written or one that was there before. -/
theorem State.mem_writeSlot {s : State} {k : SlotNo} {sl x : Slot} (h : x ∈ (s.writeSlot k sl).slots) :
    x = sl ∨ x ∈ s.slots := by
  rcases List.mem_or_eq_of_mem_set h with h | h
  · exact .inr h
  · exact .inl h

/-- Everything a command on a slot can answer with a next state: E_SLOT, or what it does with the slot it names. -/
theorem withSlot_next {k : SlotNo} {s t : State} {run : Slot → Result} (h : withSlot k s run = .next t) :
    (s.slot k = none ∧ t = s.raise .eSlot) ∨ (∃ sl, s.slot k = some sl ∧ run sl = .next t) := by
  unfold withSlot at h
  split at h
  · rename_i hk; injection h with h; exact .inl ⟨hk, h.symm⟩
  · rename_i sl hk; exact .inr ⟨sl, hk, h⟩

/-- Everything a command on a slot's subkeys can answer with a next state: E_SLOT, E_NOKEY, or what it does with the
subkeys. -/
theorem withKey_next {k : SlotNo} {s t : State} {run : SubkeySet → Result} (h : withKey k s run = .next t) :
    (s.slot k = none ∧ t = s.raise .eSlot) ∨
    (∃ sl, s.slot k = some sl ∧ sl.kv = false ∧ t = s.raise .eNoKey) ∨
    (∃ sl, s.slot k = some sl ∧ sl.kv = true ∧ run sl.sk = .next t) := by
  rcases withSlot_next h with h | ⟨sl, hk, h⟩
  · exact .inl h
  · cases hv : sl.kv with
    | false => rw [hv] at h; injection h with h; exact .inr (.inl ⟨sl, hk, hv, h.symm⟩)
    | true => rw [hv] at h; exact .inr (.inr ⟨sl, hk, hv, h⟩)

/-- A command on a slot that exists does what it does with that slot. -/
theorem withSlot_some {k : SlotNo} {s : State} {sl : Slot} (h : s.slot k = some sl) (run : Slot → Result) :
    withSlot k s run = run sl := by
  simp [withSlot, h]

/-- A command on a slot that does not exist raises E_SLOT. -/
theorem withSlot_none {k : SlotNo} {s : State} (h : s.slot k = none) (run : Slot → Result) :
    withSlot k s run = .next (s.raise .eSlot) := by
  simp [withSlot, h]

/-- A command on the subkeys of a slot that holds a key does what it does with them. -/
theorem withKey_keyed {k : SlotNo} {s : State} {sl : Slot} (h : s.slot k = some sl) (hv : sl.kv = true)
    (run : SubkeySet → Result) : withKey k s run = run sl.sk := by
  simp [withKey, withSlot_some h, hv]

/-- A command on the subkeys of a slot that holds no key raises E_NOKEY. -/
theorem withKey_unkeyed {k : SlotNo} {s : State} {sl : Slot} (h : s.slot k = some sl) (hv : sl.kv = false)
    (run : SubkeySet → Result) : withKey k s run = .next (s.raise .eNoKey) := by
  simp [withKey, withSlot_some h, hv]

/-- Every status code is 0 to 4. -/
theorem Status.code_le (st : Status) : st.code.toNat ≤ 4 := by
  cases st <;> decide

/-- A status has code 0 exactly if it is OK. -/
theorem Status.code_eq_zero_iff (st : Status) : st.code = 0 ↔ st = .ok := by
  cases st <;> decide

/-- Bit `i` of KEY_VALID. -/
@[simp] theorem State.keyValid_getLsbD (s : State) (i : Nat) :
    s.keyValid.getLsbD i = (decide (i < 16) && s.keyValidBit i) := by
  by_cases h : i < 16
  · simp [State.keyValid, h]
  · simp [h, BitVec.getLsbD_of_ge s.keyValid i (Nat.le_of_not_lt h)]

end Sys2Proof.Machine
end

