-- ==== Sys2Proof/Laws/PerInstr.lean ====
section
/-! SUPPORT. The statements made per instruction. -/

/-- The command word an instruction is encoded as is one of its row of spec/opcode_table.json: the bits that the row
fixes have the row's values. -/
def Sys2Proof.Laws.EncodesTableRow.Statement (i : Sys2Proof.Instr) : Prop :=
  (Sys2Proof.encode i).word &&& (Sys2Proof.tableRow i).1 = (Sys2Proof.tableRow i).2

theorem Sys2Proof.Laws.EncodesTableRow.loadkey (slot : Sys2Proof.SlotNo) (key : Sys2Proof.Key) :
    Sys2Proof.Laws.EncodesTableRow.Statement (.loadkey slot key) := by
  dsimp only [Statement, encode, tableRow]; revert slot; decide

theorem Sys2Proof.Laws.EncodesTableRow.clearkey (slot : Sys2Proof.SlotNo) :
    Sys2Proof.Laws.EncodesTableRow.Statement (.clearkey slot) := by
  dsimp only [Statement, encode, tableRow]; revert slot; decide

theorem Sys2Proof.Laws.EncodesTableRow.kasumi (slot : Sys2Proof.SlotNo) (block : Sys2Proof.Block) :
    Sys2Proof.Laws.EncodesTableRow.Statement (.kasumi slot block) := by
  dsimp only [Statement, encode, tableRow]; revert slot; decide

theorem Sys2Proof.Laws.EncodesTableRow.fo (slot : Sys2Proof.SlotNo) (ridx : Sys2Proof.RIdx) (x : Sys2Proof.Half) :
    Sys2Proof.Laws.EncodesTableRow.Statement (.fo slot ridx x) := by
  dsimp only [Statement, encode, tableRow]; revert slot ridx; decide

theorem Sys2Proof.Laws.EncodesTableRow.fl (slot : Sys2Proof.SlotNo) (ridx : Sys2Proof.RIdx) (x : Sys2Proof.Half) :
    Sys2Proof.Laws.EncodesTableRow.Statement (.fl slot ridx x) := by
  dsimp only [Statement, encode, tableRow]; revert slot ridx; decide

theorem Sys2Proof.Laws.EncodesTableRow.fi (x k : Sys2Proof.Word) :
    Sys2Proof.Laws.EncodesTableRow.Statement (.fi x k) := by
  dsimp only [Statement, encode, tableRow]; decide

theorem Sys2Proof.Laws.EncodesTableRow.status (clr : Bool) :
    Sys2Proof.Laws.EncodesTableRow.Statement (.status clr) := by
  dsimp only [Statement, encode, tableRow]; revert clr; decide
end

