-- ==== Sys2Proof/Laws/Step.lean ====
section
/-! SUPPORT. What an instruction, a command and a step can do, said once each, for every proof over all of them. -/

namespace Sys2Proof.Machine

/-- Everything an instruction can answer with a next state: an error response; a result with no other effect; a slot
written; the log cleared. -/
theorem exec_next {i : Instr} {s t : State} (h : exec i s = .next t) :
    (∃ e, e ≠ .ok ∧ t = s.raise e) ∨
    (i.computes = true ∧ ∃ d, t = s.respond .ok d) ∨
    (∃ slot key, i = .loadkey slot key ∧ slot.toNat < s.numSlots ∧
      t = (s.writeSlot slot { kv := true, sk := keySchedule key }).respond .ok 0) ∨
    (∃ slot, i = .clearkey slot ∧ slot.toNat < s.numSlots ∧ t = (s.writeSlot slot Slot.empty).respond .ok 0) ∨
    (i = .status true ∧ t = s.clearLog.respond .ok s.statusWord) ∨
    (i = .status false ∧ t = s.respond .ok s.statusWord) := by
  have onKey : ∀ {k : SlotNo} {f : SubkeySet → BitVec 64},
      withKey k s (fun sk => .next (s.respond .ok (f sk))) = .next t →
      (∃ e, e ≠ .ok ∧ t = s.raise e) ∨ ∃ d, t = s.respond .ok d := fun h => by
    rcases withKey_next h with ⟨_, h⟩ | ⟨_, _, _, h⟩ | ⟨sl, _, _, h⟩
    · exact .inl ⟨.eSlot, by decide, h⟩
    · exact .inl ⟨.eNoKey, by decide, h⟩
    · injection h with h; exact .inr ⟨_, h.symm⟩
  cases i with
  | loadkey slot key =>
    rcases withSlot_next h with ⟨_, h⟩ | ⟨sl, hk, h⟩
    · exact .inl ⟨.eSlot, by decide, h⟩
    · injection h with h
      exact .inr (.inr (.inl ⟨slot, key, rfl, (s.slot_isSome_iff slot).1 ⟨sl, hk⟩, h.symm⟩))
  | clearkey slot =>
    rcases withSlot_next h with ⟨_, h⟩ | ⟨sl, hk, h⟩
    · exact .inl ⟨.eSlot, by decide, h⟩
    · injection h with h
      exact .inr (.inr (.inr (.inl ⟨slot, rfl, (s.slot_isSome_iff slot).1 ⟨sl, hk⟩, h.symm⟩)))
  | kasumi slot block => exact (onKey (f := fun sk => kasumi sk block) h).imp_right fun h => .inl ⟨rfl, h⟩
  | fo slot ridx x => exact (onKey (f := fun sk => (fo sk ridx x).setWidth 64) h).imp_right fun h => .inl ⟨rfl, h⟩
  | fl slot ridx x => exact (onKey (f := fun sk => (fl sk ridx x).setWidth 64) h).imp_right fun h => .inl ⟨rfl, h⟩
  | fi x k => injection h with h; exact .inr (.inl ⟨rfl, _, h.symm⟩)
  | status clr =>
    cases clr with
    | true => injection h with h; exact .inr (.inr (.inr (.inr (.inl ⟨rfl, h.symm⟩))))
    | false => injection h with h; exact .inr (.inr (.inr (.inr (.inr ⟨rfl, h.symm⟩))))

/-- Everything a transferred command can answer with a next state: the decoder's error, or what its instruction does. -/
theorem runCommand_next {c : Command} {s t : State} (h : runCommand c s = .next t) :
    (∃ r, decode c = .error r ∧ t = s.raise (rejectStatus r)) ∨ (∃ i, decode c = .ok i ∧ exec i s = .next t) := by
  unfold runCommand at h
  split at h
  · rename_i i hd; exact .inr ⟨i, hd, h⟩
  · rename_i r hd; injection h with h; exact .inl ⟨r, hd, h.symm⟩

/-- Everything a step can answer with a next state: nothing (no edge to come), a reset, an edge at which no command
transfers, or a command with the ports' part of the edge around it. -/
theorem step_next {s t : State} (h : step s = .next t) :
    (s.edges = [] ∧ t = s) ∨
    ∃ e rest, s.edges = e :: rest ∧
      ((e.rstN = false ∧ t = (s.withEdges rest).resetEdge e) ∨
       (e.rstN = true ∧ s.commandTransfers e = false ∧
         t = ((s.withEdges rest).responseEdge e).driveOutputs e) ∨
       (e.rstN = true ∧ s.commandTransfers e = true ∧
         ∃ u, runCommand e.command ((s.withEdges rest).responseEdge e) = .next u ∧
           t = u.driveOutputs e)) := by
  unfold step at h
  split at h
  · rename_i hs; injection h with h; exact .inl ⟨hs, h.symm⟩
  · rename_i e rest hs
    refine .inr ⟨e, rest, hs, ?_⟩
    unfold clockEdge at h
    split at h
    · rename_i hr; injection h with h; exact .inl ⟨hr, h.symm⟩
    · rename_i hr
      split at h
      · rename_i hc
        unfold driveAfter at h
        split at h
        · rename_i u hu; injection h with h; exact .inr (.inr ⟨hr, hc, u, hu, h.symm⟩)
        · cases h
        · cases h
      · rename_i hc; injection h with h; exact .inr (.inl ⟨hr, hc, h.symm⟩)

end Sys2Proof.Machine
end

