-- ==== Sys2Proof/Laws/Runs.lean ====
section
/-! SUPPORT. What a command and a step do in terms of the architectural state, for proofs about runs. -/

namespace Sys2Proof.Machine

@[simp] theorem State.fed_slots (s : State) (es : Nat → Edge) (n : Nat) : (s.fed es n).slots = s.slots := rfl

@[simp] theorem State.fed_lastErr (s : State) (es : Nat → Edge) (n : Nat) : (s.fed es n).lastErr = s.lastErr := rfl

@[simp] theorem State.fed_errSticky (s : State) (es : Nat → Edge) (n : Nat) :
    (s.fed es n).errSticky = s.errSticky := rfl

@[simp] theorem State.fed_pending (s : State) (es : Nat → Edge) (n : Nat) : (s.fed es n).pending = s.pending := rfl

@[simp] theorem State.fed_delivered (s : State) (es : Nat → Edge) (n : Nat) :
    (s.fed es n).delivered = s.delivered := rfl

@[simp] theorem State.fed_edges (s : State) (es : Nat → Edge) (n : Nat) :
    (s.fed es n).edges = (List.range n).map es := rfl

/-- A run of no steps stays where it is. -/
theorem State.runsTo_zero {s t : State} : s.RunsTo 0 t ↔ s = t :=
  ⟨fun h => by injection h, fun h => congrArg _ h⟩

/-- A run of one more step is a step and then the run. -/
theorem State.runsTo_succ {s u t : State} {n : Nat} (h : step s = .next u) : s.RunsTo (n + 1) t ↔ u.RunsTo n t := by
  have hc : Sys2Proof.core.step s = .next u := h
  simp only [State.RunsTo, Host.Core.run, hc]

/-- The commands of one more step are that of the step and then those of the rest. -/
theorem State.transfers_succ {s u : State} (h : step s = .next u) (n : Nat) :
    s.transfers (n + 1) = s.nextTransfer ++ u.transfers n := by
  simp [State.transfers, h]

theorem runCommands_cons {c : Command} {s t : State} (h : runCommand c s = .next t) (cs : List Command) :
    runCommands (c :: cs) s = runCommands cs t := by
  simp [runCommands, h]

/-- In every state that agrees with `s` on slots and log, the command writes the same slots and log and adds the same one
response, and changes nothing else. -/
def OneAnswer (c : Command) (s : State) : Prop :=
  ∃ slots lastErr errSticky r, ∀ s', s'.SameArchitectural s → runCommand c s' =
    .next { s' with slots := slots, lastErr := lastErr, errSticky := errSticky, pending := s'.pending ++ [r] }

/-- Every command answers a next state: it changes slots and log and adds one response, all of it as a function of slots
and log only (20_memory.md R41). -/
theorem runCommand_answers (c : Command) (s : State) : OneAnswer c s := by
  have pick : ∀ f : State → State, (∃ slots lastErr errSticky r, ∀ s', s'.SameArchitectural s →
      f s' = { s' with slots := slots, lastErr := lastErr, errSticky := errSticky, pending := s'.pending ++ [r] }) →
      (∀ s', s'.SameArchitectural s → runCommand c s' = .next (f s')) → OneAnswer c s :=
    fun f ⟨a, b, d, r, h⟩ hf => ⟨a, b, d, r, fun s' hs => (hf s' hs).trans (congrArg _ (h s' hs))⟩
  have error : ∀ e : Status, (∀ s', s'.SameArchitectural s → runCommand c s' = .next (s'.raise e)) → OneAnswer c s :=
    fun e => pick (·.raise e) ⟨s.slots, _, _, _, fun s' h => by rw [← h.slots]; rfl⟩
  have result : ∀ d : BitVec 64, (∀ s', s'.SameArchitectural s → runCommand c s' = .next (s'.respond .ok d)) → OneAnswer c s :=
    fun d => pick (·.respond .ok d) ⟨s.slots, s.lastErr, s.errSticky, _, fun s' h => by
      rw [← h.slots, ← h.lastErr, ← h.errSticky]; rfl⟩
  have slotEq : ∀ {s' : State} (k : SlotNo), s'.SameArchitectural s → s'.slot k = s.slot k := fun k h => by
    simp [State.slot, h.slots]
  have onKey : ∀ (k : SlotNo) (f : SubkeySet → BitVec 64),
      (∀ s', runCommand c s' = withKey k s' fun sk => .next (s'.respond .ok (f sk))) → OneAnswer c s := by
    intro k f hc
    cases hk : s.slot k with
    | none => exact error .eSlot fun s' h => (hc s').trans (withSlot_none ((slotEq k h).trans hk) _)
    | some sl =>
      cases hv : sl.kv with
      | false => exact error .eNoKey fun s' h => (hc s').trans (withKey_unkeyed ((slotEq k h).trans hk) hv _)
      | true => exact result (f sl.sk) fun s' h => (hc s').trans (withKey_keyed ((slotEq k h).trans hk) hv _)
  have onSlot : ∀ (k : SlotNo) (sl : Slot),
      (∀ s', runCommand c s' = withSlot k s' fun _ => .next ((s'.writeSlot k sl).respond .ok 0)) → OneAnswer c s := by
    intro k sl hc
    cases hk : s.slot k with
    | none => exact error .eSlot fun s' h => (hc s').trans (withSlot_none ((slotEq k h).trans hk) _)
    | some old =>
      exact pick (fun s' => (s'.writeSlot k sl).respond .ok 0)
        ⟨s.slots.set k.toNat sl, s.lastErr, s.errSticky, _, fun s' h => by
          rw [← h.slots, ← h.lastErr, ← h.errSticky]; rfl⟩
        fun s' h => (hc s').trans (withSlot_some ((slotEq k h).trans hk) _)
  cases hd : decode c with
  | error r => exact error (rejectStatus r) fun s' _ => by simp [runCommand, hd]
  | ok i =>
    have hc : ∀ s', runCommand c s' = exec i s' := fun s' => by simp [runCommand, hd]
    cases i with
    | loadkey slot key => exact onSlot slot _ hc
    | clearkey slot => exact onSlot slot _ hc
    | kasumi slot block => exact onKey slot (fun sk => kasumi sk block) hc
    | fo slot n x => exact onKey slot (fun sk => (fo sk n x).setWidth 64) hc
    | fl slot n x => exact onKey slot (fun sk => (fl sk n x).setWidth 64) hc
    | fi x k => exact result _ fun s' _ => hc s'
    | status clr =>
      have word : ∀ {s' : State}, s'.SameArchitectural s → s'.statusWord = s.statusWord := fun h => by
        simp [State.statusWord, State.keyValid, State.keyValidBit, State.numSlots, h.slots, h.lastErr, h.errSticky]
      cases clr with
      | false => exact result s.statusWord fun s' h => (hc s').trans (by rw [← word h]; rfl)
      | true =>
        exact pick (fun s' => s'.clearLog.respond .ok s'.statusWord)
          ⟨s.slots, 0, false, ⟨.ok, s.statusWord⟩, fun s' h => by rw [← h.slots, ← word h]; rfl⟩ fun s' _ => hc s'

/-- Commands in a row do the same, with one response each (10_state.md R30, 20_memory.md R41). -/
theorem runCommands_answers (cs : List Command) (s : State) :
    ∃ slots lastErr errSticky new, new.length = cs.length ∧ ∀ s', s'.SameArchitectural s → runCommands cs s' =
      .next { s' with slots := slots, lastErr := lastErr, errSticky := errSticky, pending := s'.pending ++ new } := by
  induction cs generalizing s with
  | nil => exact ⟨s.slots, s.lastErr, s.errSticky, [], rfl, fun s' h => by
      rw [← h.slots, ← h.lastErr, ← h.errSticky, List.append_nil]; rfl⟩
  | cons c cs ih =>
    obtain ⟨slots, lastErr, errSticky, r, h⟩ := runCommand_answers c s
    obtain ⟨slots', lastErr', errSticky', new, hl, h'⟩ :=
      ih { s with slots := slots, lastErr := lastErr, errSticky := errSticky }
    refine ⟨slots', lastErr', errSticky', r :: new, by simp [hl], fun s' hs => ?_⟩
    rw [runCommands_cons (h s' hs), h' { s' with
      slots := slots, lastErr := lastErr, errSticky := errSticky, pending := s'.pending ++ [r] } ⟨rfl, rfl, rfl⟩]
    simp

/-- Commands in a row, cut in two. -/
theorem runCommands_append {cs : List Command} {s t : State} (h : runCommands cs s = .next t) (ds : List Command) :
    runCommands (cs ++ ds) s = runCommands ds t := by
  induction cs generalizing s with
  | nil => injection h with h; rw [h, List.nil_append]
  | cons c cs ih =>
    obtain ⟨_, _, _, _, hc⟩ := runCommand_answers c s
    have hc := hc s ⟨rfl, rfl, rfl⟩
    rw [List.cons_append, runCommands_cons hc]
    exact ih ((runCommands_cons hc cs).symm.trans h)

/-- The response channel moves responses and loses none. -/
theorem State.responseEdge_responses (s : State) (e : Edge) :
    (s.responseEdge e).delivered ++ (s.responseEdge e).pending = s.delivered ++ s.pending := by
  unfold State.responseEdge State.deliver
  split
  · split
    · rfl
    · rename_i h; simp [h]
  · rfl

/-- Every edge answers a next state. -/
theorem clockEdge_answers (e : Edge) (s : State) : ∃ t, clockEdge e s = .next t := by
  unfold clockEdge
  split
  · exact ⟨_, rfl⟩
  · split
    · obtain ⟨_, _, _, _, ha⟩ := runCommand_answers e.command (s.responseEdge e)
      rw [ha _ ⟨rfl, rfl, rfl⟩]
      exact ⟨_, rfl⟩
    · exact ⟨_, rfl⟩

/-- What an edge does does not depend on the edges after it, and leaves them as they are. -/
theorem clockEdge_withEdges {e : Edge} {s t : State} (h : clockEdge e s = .next t) (rest : List Edge) :
    clockEdge e (s.withEdges rest) = .next (t.withEdges rest) := by
  have hr : (s.withEdges rest).responseEdge e = (s.responseEdge e).withEdges rest := by
    unfold State.responseEdge State.deliver
    cases ht : s.responseTransfers e with
    | true =>
      simp only [show (s.withEdges rest).responseTransfers e = true from ht, if_true]
      cases s; rename_i p _ _ _ _; cases p <;> rfl
    | false => simp [show (s.withEdges rest).responseTransfers e = false from ht]
  unfold clockEdge at h ⊢
  cases hn : e.rstN with
  | false => rw [hn] at h; injection h with h; rw [← h]; rfl
  | true =>
    rw [hn] at h
    cases hc : s.commandTransfers e with
    | true =>
      obtain ⟨_, _, _, _, ha⟩ := runCommand_answers e.command (s.responseEdge e)
      simp only [hc, ha _ ⟨rfl, rfl, rfl⟩, driveAfter] at h
      injection h with h
      simp only [show (s.withEdges rest).commandTransfers e = true from hc, hr,
        ha ((s.responseEdge e).withEdges rest) ⟨rfl, rfl, rfl⟩, driveAfter, ← h]
      rfl
    | false =>
      simp only [hc] at h
      injection h with h
      simp only [show (s.withEdges rest).commandTransfers e = false from hc, hr, ← h]
      rfl

/-- A step takes the first edge of an unending sequence and leaves the others to come. -/
theorem step_fed {s t : State} {es : Nat → Edge} (h : clockEdge (es 0) s = .next t) (n : Nat) :
    step (s.fed es (n + 1)) = .next (t.fed (fun k => es (k + 1)) n) := by
  have he : (s.fed es (n + 1)).edges = es 0 :: (List.range n).map fun k => es (k + 1) := by
    simp [List.range_succ_eq_map]
  unfold step
  rw [he]
  exact clockEdge_withEdges h _

/-- Everything a step does at an edge without reset: the command that transfers, if one does, acts on slots and log as it
does at transaction level and adds its response; the oldest response moves if its transfer takes place; the outputs are
driven. -/
theorem step_edge {s : State} {e : Edge} {rest : List Edge} (hs : s.edges = e :: rest) (hr : e.rstN = true) :
    ∃ t u new, step s = .next t ∧ runCommands s.nextTransfer s = .next u ∧ t.SameArchitectural u ∧
      u.pending = s.pending ++ new ∧ new.length = s.nextTransfer.length ∧
      t.delivered = (s.responseEdge e).delivered ∧ t.pending = (s.responseEdge e).pending ++ new ∧
      t.edges = rest ∧ t.cmdReady = e.cmdReadyNext ∧ t.rspValid = (!t.pending.isEmpty && e.rspOffer) := by
  have hp : ((s.withEdges rest).responseEdge e).pending = (s.responseEdge e).pending := by
    simp only [State.responseEdge_pending]; rfl
  have hd : ((s.withEdges rest).responseEdge e).delivered = (s.responseEdge e).delivered := by
    simp only [State.responseEdge_delivered]; rfl
  cases hc : s.commandTransfers e with
  | true =>
    obtain ⟨slots, lastErr, errSticky, r, h⟩ := runCommand_answers e.command s
    have hn : s.nextTransfer = [e.command] := by simp [State.nextTransfer, hs, hr, hc]
    have ht : step s = driveAfter e (runCommand e.command ((s.withEdges rest).responseEdge e)) := by
      simp only [step, hs, clockEdge, hr, show (s.withEdges rest).commandTransfers e = true from hc]
    rw [h _ ⟨by simp, by simp, by simp⟩] at ht
    exact ⟨_, { s with slots := slots, lastErr := lastErr, errSticky := errSticky, pending := s.pending ++ [r] }, [r], ht,
      hn ▸ runCommands_cons (h s ⟨rfl, rfl, rfl⟩) [], ⟨rfl, rfl, rfl⟩, rfl, by simp [hn], hd,
      congrArg (· ++ [r]) hp, by simp, rfl, rfl⟩
  | false =>
    have hn : s.nextTransfer = [] := by simp [State.nextTransfer, hs, hr, hc]
    have ht : step s = .next (((s.withEdges rest).responseEdge e).driveOutputs e) := by
      simp only [step, hs, clockEdge, hr, show (s.withEdges rest).commandTransfers e = false from hc]
    exact ⟨_, s, [], ht, by simp [hn, runCommands], ⟨by simp, by simp, by simp⟩, by simp, by simp [hn], hd,
      by simp [hp], by simp, rfl, rfl⟩

end Sys2Proof.Machine
end

