-- ==== Sys2Proof/Tests/Slice0.lean ====
section
/-! SUPPORT. Tests of one operation or one step each, with the results of 95_test_vectors.md and the rules' own examples
(never the model's own answers), and for every statement with hypotheses a witness that meets them. -/

namespace Sys2Proof.Tests

-- One theorem after another: each thread that waits for the kernel would reserve a stack of its own.
set_option Elab.async false

open Sys2Proof.Machine

/-- The key of the 3GPP KASUMI known answer (95_test_vectors.md). -/
def kat : Key := 0x2BD6459F82C5B300952C49104881FF48

/-- The subkeys of that key. -/
def katSet : SubkeySet := keySchedule kat

/-- NUM_SLOTS = 2, slot 0 loaded with the KAT key, slot 1 empty: KV = [1,0]. -/
def katState : State := { State.reset with slots := [⟨true, katSet⟩, Slot.empty] }

/-- NUM_SLOTS = 2, slot 0 loaded with the all-zero key. -/
def zeroKeyState : State := { State.reset with slots := [⟨true, keySchedule 0⟩, Slot.empty] }

/-- KV = [1,0], LAST_ERR = 4, STICKY = 1 (V-T4 and V-T8). -/
def loggedState : State := { katState with lastErr := 4, errSticky := true }

/-- An edge at which the host offers a command and takes no response. -/
def offer (w : BitVec 32) (d : BitVec 128) : Edge :=
  { rstN := true, cmdValid := true, command := ⟨w, d⟩, rspReady := false, cmdReadyNext := true, rspOffer := true }

/-- An edge at which the host offers nothing and takes a response. -/
def take : Edge :=
  { rstN := true, cmdValid := false, command := ⟨0, 0⟩, rspReady := true, cmdReadyNext := true, rspOffer := true }

/-- An edge with rst_n = 0, at which a LOADKEY is offered. -/
def resetPulse : Edge := { offer 0x00000001 0 with rstN := false }

/-- The state after one step that is offered this command, if the step answers one. -/
def after (w : BitVec 32) (d : BitVec 128) (s : State) : Option State :=
  match step { s with edges := [offer w d] } with
  | .next t => some t
  | .fault _ => none
  | .refused _ => none

/-- The response to this command, as the port shows it after one step with nothing else in flight. -/
def answer (w : BitVec 32) (d : BitVec 128) (s : State) : Option Response :=
  (after w d s).bind State.rspPort

/-- LAST_ERR and ERR_STICKY after this command. -/
def logAfter (w : BitVec 32) (d : BitVec 128) (s : State) : Option (BitVec 4 × Bool) :=
  (after w d s).map fun t => (t.lastErr, t.errSticky)

/-! ## Well-formedness: an ill-formed term for the check, at each form that has it, and the boundary -/

theorem test_wellFormed_refuses_slot_2_of_2 :
    (Instr.loadkey 2 0).wellFormed 2 = false ∧ (Instr.clearkey 2).wellFormed 2 = false ∧
    (Instr.kasumi 2 0).wellFormed 2 = false ∧ (Instr.fo 2 0 0).wellFormed 2 = false ∧
    (Instr.fl 2 0 0).wellFormed 2 = false := by decide

theorem test_wellFormed_accepts_the_last_slot :
    (Instr.loadkey 1 0).wellFormed 2 = true ∧ (Instr.kasumi 15 0).wellFormed 16 = true ∧
    (Instr.fi 0 0).wellFormed 1 = true ∧ (Instr.status true).wellFormed 1 = true := by decide

/-! ## Decoding: words written out from 30_encoding.md R47, R48 -/

-- r = 20 zeros, c = 0, iii = 000, ssss = 0001, oooo = 0001
theorem test_decode_loadkey : decode ⟨0b00000000000000000000_0_000_0001_0001, kat⟩ = .ok (.loadkey 1 kat) := by rfl

theorem test_decode_clearkey : decode ⟨0b00000000000000000000_0_000_1111_0010, kat⟩ = .ok (.clearkey 15) := by rfl

-- V-K8: bits 127:64 are ignored
theorem test_decode_kasumi : decode ⟨0b00000000000000000000_0_000_0000_0011, 0xFFFFFFFFFFFFFFFFEA024714AD5C4D84⟩ =
    .ok (.kasumi 0 0xEA024714AD5C4D84) := by rfl

theorem test_decode_fo : decode ⟨0b00000000000000000000_0_111_0001_0100, 0xFFFFFFFFFFFFFFFFFFFFFFFF80000001⟩ =
    .ok (.fo 1 7 0x80000001) := by rfl

theorem test_decode_fl : decode ⟨0b00000000000000000000_0_001_0000_0101, 0x03E715B9⟩ = .ok (.fl 0 1 0x03E715B9) := by
  rfl

theorem test_decode_fi : decode ⟨0b00000000000000000000_0_000_0000_0110, 0xFFFFFFFFFFFFFFFFFFFFFFFFABCD1234⟩ =
    .ok (.fi 0x1234 0xABCD) := by rfl

theorem test_decode_status : decode ⟨0b00000000000000000000_1_000_0000_0111, 0⟩ = .ok (.status true) ∧
    decode ⟨0b00000000000000000000_0_000_0000_0111, 0⟩ = .ok (.status false) := ⟨rfl, rfl⟩

-- V-D1 to V-D10: each refused by name
theorem test_decode_refusals :
    decode ⟨0x00000000, 0⟩ = .error .opcode ∧ decode ⟨0x0000000F, 0⟩ = .error .opcode ∧
    decode ⟨0x80000008, 0⟩ = .error .opcode ∧ decode ⟨0x80000003, 0⟩ = .error .reserved ∧
    decode ⟨0x00001003, 0⟩ = .error .reserved ∧ decode ⟨0x00000803, 0⟩ = .error .reserved ∧
    decode ⟨0x00000107, 0⟩ = .error .reserved ∧ decode ⟨0x00000106, 0⟩ = .error .reserved ∧
    decode ⟨0x000010F3, 0⟩ = .error .reserved := ⟨rfl, rfl, rfl, rfl, rfl, rfl, rfl, rfl, rfl⟩

-- The encoder against the words of R61, R62, R74, R75, R69, R84
theorem test_encode_words :
    encode (.loadkey 1 kat) = ⟨0x00000011, kat⟩ ∧ encode (.clearkey 1) = ⟨0x00000012, 0⟩ ∧
    encode (.fo 0 7 0xFFFFFFFF) = ⟨0x00000704, 0xFFFFFFFF⟩ ∧ encode (.fl 0 1 0x03E715B9) = ⟨0x00000105, 0x03E715B9⟩ ∧
    encode (.fi 0x1234 0xABCD) = ⟨0x00000006, 0xABCD1234⟩ ∧ encode (.status true) = ⟨0x00000807, 0⟩ := by decide

theorem test_decodeTableWord : decodeTableWord 32 0x00000704 = some (.fo 0 7 0) ∧
    decodeTableWord 32 0x00000000 = none ∧
    decodeTableWord 160 (0x00000006 + 0xABCD1234 * 2 ^ 32) = some (.fi 0x1234 0xABCD) := by decide

/-! ## The functions -/

-- 95_test_vectors.md 2.1
theorem test_rol16 : rol16 0x2BD6 1 = 0x57AC ∧ rol16 0x2BD6 5 = 0x7AC5 ∧ rol16 0x2BD6 8 = 0xD62B ∧
    rol16 0x2BD6 13 = 0xC57A ∧ rol16 0x8001 13 = 0x3000 := by decide

-- V-S1
theorem test_keySchedule_kat :
    katSet.kl1.toList = [0x57AC, 0x8B3E, 0x058B, 0x6601, 0x2A59, 0x9220, 0x9102, 0xFE91] ∧
    katSet.kl2.toList = [0x0B6E, 0x7EEF, 0x6BF0, 0xF388, 0x3ED5, 0xCD58, 0x2AF5, 0x00F8] ∧
    katSet.ko1.toList = [0xB3E8, 0x58B0, 0x6016, 0xA592, 0x2209, 0x1029, 0xE91F, 0x7AC5] ∧
    katSet.ko2.toList = [0x1049, 0x8148, 0x48FF, 0xD62B, 0x9F45, 0xC582, 0x00B3, 0x2C95] ∧
    katSet.ko3.toList = [0x2910, 0x1FE9, 0xC57A, 0xE8B3, 0xB058, 0x1660, 0x92A5, 0x0922] ∧
    katSet.ki1.toList = [0x6BF0, 0xF388, 0x3ED5, 0xCD58, 0x2AF5, 0x00F8, 0x0B6E, 0x7EEF] ∧
    katSet.ki2.toList = [0x7EEF, 0x6BF0, 0xF388, 0x3ED5, 0xCD58, 0x2AF5, 0x00F8, 0x0B6E] ∧
    katSet.ki3.toList = [0xCD58, 0x2AF5, 0x00F8, 0x0B6E, 0x7EEF, 0x6BF0, 0xF388, 0x3ED5] := by decide +kernel

-- V-I1 to V-I8
theorem test_fi_vectors : fi 0x0000 0x0000 = 0xF009 ∧ fi 0xFFFF 0x0000 = 0x9836 ∧ fi 0x0000 0xFFFF = 0x993F ∧
    fi 0xFFFF 0xFFFF = 0x97B5 ∧ fi 0x1234 0xABCD = 0x840F ∧ fi 0x007F 0x0000 = 0xC187 ∧
    fi 0xFF80 0x0000 = 0xDCC7 ∧ fi 0x0080 0x0200 = 0x8B9E := by decide +kernel

-- V-O1 to V-O8
theorem test_fo_vectors : fo katSet 0 0x00000000 = 0x8807035B ∧ fo katSet 7 0x00000000 = 0xA56765DF ∧
    fo katSet 0 0xFFFFFFFF = 0x03B0AAB4 ∧ fo katSet 7 0xFFFFFFFF = 0x5859C8C3 ∧ fo katSet 0 0xEA024714 = 0x5CA20CB6 ∧
    fo katSet 7 0xEA024714 = 0xAE34CF99 ∧ fo (keySchedule 0) 0 0x00000000 = 0x3A20A1AB ∧
    fo (keySchedule 0) 0 0xFFFFFFFF = 0xB1F2FAE7 := by decide +kernel

theorem test_fl_vectors : fl katSet 0 0x00000000 = 0x16DC0000 ∧ fl katSet 7 0x00000000 = 0x01F00000 ∧
    fl katSet 0 0xFFFFFFFF = 0x482150A7 ∧ fl katSet 7 0xFFFFFFFF = 0xFA0702DC ∧ fl katSet 0 0xEA024714 = 0x7CFFC314 ∧
    fl katSet 7 0xEA024714 = 0xCDF99315 ∧ fl (keySchedule 0) 0 0x00000000 = 0x13570000 ∧
    fl (keySchedule 0) 0 0xFFFFFFFF = 0x0000FFFF := by decide +kernel

-- V-K1 (the 3GPP known answer) to V-K7
theorem test_kasumi_kat : kasumi katSet 0xEA024714AD5C4D84 = 0xDF1F9B251C0BF45F ∧
    kasumi katSet 0x0000000000000000 = 0xE62296D6D9D2B6AF ∧
    kasumi katSet 0xFFFFFFFFFFFFFFFF = 0xCA7F67832620A9F6 := by decide +kernel

theorem test_kasumi_corner_keys : kasumi (keySchedule 0) 0x0000000000000000 = 0xF54CFBF75F3B5699 ∧
    kasumi (keySchedule 0) 0xFFFFFFFFFFFFFFFF = 0x424FB3C2755B02A3 ∧
    kasumi (keySchedule (-1)) 0xFFFFFFFFFFFFFFFF = 0xA02BFA9FDDE0F310 ∧
    kasumi (keySchedule (-1)) 0x0000000000000000 = 0xA3D92762E24B8E15 := by decide +kernel

/-! ## One step of each command -/

-- V-L1
theorem test_step_loadkey : (after 0x00000001 kat State.reset).map State.slots = some [⟨true, katSet⟩, Slot.empty] ∧
    answer 0x00000001 kat State.reset = some ⟨.ok, 0⟩ := by decide +kernel

-- V-L6, V-L7
theorem test_step_loadkey_errors : answer 0x00000021 kat katState = some ⟨.eSlot, 0⟩ ∧
    logAfter 0x00000021 kat katState = some (3, true) ∧ answer 0x00000101 kat katState = some ⟨.eReserved, 0⟩ ∧
    (after 0x00000101 kat katState).map State.slots = some katState.slots := by decide +kernel

-- CLEARKEY example of R62
theorem test_step_clearkey : (after 0x00000002 kat katState).map State.slots = some [Slot.empty, Slot.empty] ∧
    answer 0x00000002 0 katState = some ⟨.ok, 0⟩ := by decide +kernel

-- V-L8
theorem test_step_clearkey_errors : answer 0x00000022 0 katState = some ⟨.eSlot, 0⟩ ∧
    logAfter 0x00000022 0 katState = some (3, true) := by decide +kernel

-- V-K8
theorem test_step_kasumi :
    answer 0x00000003 0xFFFFFFFFFFFFFFFFEA024714AD5C4D84 katState = some ⟨.ok, 0xDF1F9B251C0BF45F⟩ := by decide +kernel

-- V-K9, V-K10, V-D11, and V-D11 with NUM_SLOTS = 16
theorem test_step_kasumi_errors : answer 0x00000103 0 katState = some ⟨.eReserved, 0⟩ ∧
    answer 0x00000013 0 katState = some ⟨.eNoKey, 0⟩ ∧ answer 0x000000F3 0 katState = some ⟨.eSlot, 0⟩ ∧
    answer 0x000000F3 0 (State.resetWith 16) = some ⟨.eNoKey, 0⟩ := by decide +kernel

-- V-O4, V-O12
theorem test_step_fo : answer 0x00000704 0xFFFFFFFF katState = some ⟨.ok, 0x000000005859C8C3⟩ ∧
    answer 0x00000004 0xFFFFFFFFFFFFFFFFFFFFFFFF00000000 katState = some ⟨.ok, 0x000000008807035B⟩ := by decide +kernel

-- V-O9, V-O10
theorem test_step_fo_errors : answer 0x00000704 0 State.reset = some ⟨.eNoKey, 0⟩ ∧
    answer 0x00000804 0 katState = some ⟨.eReserved, 0⟩ := by decide +kernel

-- V-O3, V-O8
theorem test_step_fl : answer 0x00000005 0xFFFFFFFF katState = some ⟨.ok, 0x00000000482150A7⟩ ∧
    answer 0x00000005 0xFFFFFFFF zeroKeyState = some ⟨.ok, 0x000000000000FFFF⟩ := by decide +kernel

-- V-O11, V-D15
theorem test_step_fl_errors : answer 0x00000025 0 katState = some ⟨.eSlot, 0⟩ ∧
    answer 0x00000015 0 katState = some ⟨.eNoKey, 0⟩ := by decide +kernel

-- V-I9, V-I11
theorem test_step_fi : answer 0x00000006 0xFFFFFFFFFFFFFFFFFFFFFFFFABCD1234 State.reset = some ⟨.ok, 0x840F⟩ ∧
    answer 0x00000006 0 State.reset = some ⟨.ok, 0xF009⟩ := by decide +kernel

-- V-I10
theorem test_step_fi_errors : answer 0x00000016 0 State.reset = some ⟨.eReserved, 0⟩ := by decide +kernel

-- V-T1, V-T2, V-T6, V-T7
theorem test_step_status : answer 0x00000007 0 State.reset = some ⟨.ok, 0x4B41533100020000⟩ ∧
    answer 0x00000007 0 katState = some ⟨.ok, 0x4B41533100020001⟩ ∧
    answer 0x00000007 0 (State.resetWith 16) = some ⟨.ok, 0x4B41533100100000⟩ ∧
    answer 0x00000007 0 (State.resetWith 1) = some ⟨.ok, 0x4B41533100010000⟩ := by decide +kernel

-- V-T4, V-T8
theorem test_step_status_clr : answer 0x00000807 0 loggedState = some ⟨.ok, 0x4B41533114020001⟩ ∧
    logAfter 0x00000807 0 loggedState = some (0, false) ∧ answer 0x00000817 0 loggedState = some ⟨.eReserved, 0⟩ ∧
    logAfter 0x00000817 0 loggedState = some (2, true) := by decide +kernel

/-! ## The ports -/

/-- A state with one response offered and one waiting behind it. -/
def offered (es : List Edge) : State :=
  { katState with pending := [⟨.ok, 7⟩, ⟨.eSlot, 0⟩], rspValid := true, edges := es }

/-- The state after one step. -/
def next (s : State) : Option State :=
  match step s with
  | .next t => some t
  | .fault _ => none
  | .refused _ => none

-- R30: the oldest response moves, in order
theorem test_take_delivers_the_oldest : (next (offered [take])).map (fun t => (t.delivered, t.pending)) =
    some ([⟨.ok, 7⟩], [⟨.eSlot, 0⟩]) := by decide +kernel

-- R30: both channels transfer at one edge
theorem test_both_channels_at_one_edge :
    (next (offered [{ offer 0x00000000 0 with rspReady := true }])).map (fun t => (t.delivered, t.pending, t.lastErr)) =
    some ([⟨.ok, 7⟩], [⟨.eSlot, 0⟩, ⟨.eOpcode, 0⟩], 1) := by decide +kernel

-- R30: a command offered while cmd_ready is 0 does not transfer
theorem test_not_ready_takes_no_command :
    (next { katState with cmdReady := false, edges := [offer 0x00000002 0] }).map (fun t => (t.slots, t.pending)) =
    some (katState.slots, []) := by decide +kernel

-- R99, R100: reset discards what is in flight and takes no command
theorem test_reset_discards : (next (offered [resetPulse])).map (fun t => (t.slots, t.pending, t.rspValid)) =
    some ([Slot.empty, Slot.empty], [], false) := by decide +kernel

-- R84's value after reset, through the offered command word of STATUS
theorem test_withFetchWord_runs_the_word : (next (State.reset.withFetchWord 32 0x00000007)).map State.pending =
    some [⟨.ok, 0x4B41533100020000⟩] := by decide +kernel

/-! ## Witnesses: states and operands that meet the hypotheses of the statements -/

theorem witness_DecoderAcceptsExactlyTheTableRows :
    decode ⟨0x000000F1, 0⟩ = .ok (.loadkey 15 0) ∧
    (0x00000807#32) &&& (tableRow (.status false)).1 = (tableRow (.status false)).2 := ⟨rfl, by decide⟩

theorem witness_DecodedInstructionKeepsTheCommandWord : decode ⟨0x000007F4, 0⟩ = .ok (.fo 15 7 0) := rfl

theorem witness_ChecksRunInOrderAndFirstErrorWins : State.reset.numSlots = 2 ∧
    (⟨0x00000000, 0⟩ : Command).IllegalOp ∧ (⟨0x00000008, 0⟩ : Command).IllegalOp ∧
    ¬(⟨0x00000007, 0⟩ : Command).IllegalOp ∧ (⟨0x00001001, 0⟩ : Command).ReservedSet ∧
    (⟨0x00000117, 0⟩ : Command).ReservedSet ∧ ¬(⟨0x00000807, 0⟩ : Command).ReservedSet ∧
    (⟨0x00000021, 0⟩ : Command).UsesSlot ∧ State.reset.numSlots ≤ (⟨0x00000021, 0⟩ : Command).slot.toNat ∧
    (⟨0x00000013, 0⟩ : Command).NeedsKey ∧
    (State.reset.slot (⟨0x00000013, 0⟩ : Command).slot).map Slot.kv = some false :=
  ⟨by decide, by decide, by decide, by decide, by decide, by decide, by decide, by decide, by decide, by decide, by decide⟩

theorem witness_NarrowOperandsAndIgnoredData :
    katState.slot 0 = some ⟨true, katSet⟩ ∧ (0x00000012#32).extractLsb' 0 4 = 0x2#4 ∧
    (0x00000807#32).extractLsb' 0 4 = 0x7#4 ∧ (0x00000003#32).extractLsb' 0 4 = 0x3#4 ∧
    (0xFFFFFFFFFFFFFFFF0000000000000001#128).extractLsb' 0 64 = (1#128).extractLsb' 0 64 ∧
    (0x00000704#32).extractLsb' 0 4 = 0x4#4 ∧ (0x00000005#32).extractLsb' 0 4 = 0x5#4 ∧
    (0x00000006#32).extractLsb' 0 4 = 0x6#4 ∧
    (0x10000000080000000#128).extractLsb' 0 32 = (0x80000000#128).extractLsb' 0 32 := by decide +kernel

theorem witness_KeyBytesAndWordsAreBigEndian : (0 : Nat) < 16 ∧ 15 < 16 := by decide

theorem witness_RotateLeftMovesEveryBit : (1 : Nat) ≤ 1 ∧ (1 : Nat) ≤ 15 ∧ (15 : Nat) ≤ 15 ∧ (0 : Nat) < 16 ∧ 15 < 16 := by
  decide

-- V-I5's intermediate values
theorem witness_FiFollowsItsSteps :
    0x024#9 = (0x1234#16).extractLsb' 7 9 ∧ 0x34#7 = (0x1234#16).extractLsb' 0 7 ∧
    0x0FA#9 = s9 0x024 ^^^ (0x34#7).setWidth 9 ∧ 0x6D#7 = s7 0x34 ^^^ (0x0FA#9).extractLsb' 0 7 ∧
    0x38#7 = 0x6D#7 ^^^ (0xABCD#16).extractLsb' 9 7 ∧ 0x137#9 = 0x0FA#9 ^^^ (0xABCD#16).extractLsb' 0 9 ∧
    0x00F#9 = s9 0x137 ^^^ (0x38#7).setWidth 9 ∧ 0x42#7 = s7 0x38 ^^^ (0x00F#9).extractLsb' 0 7 := by decide

-- V-O1's intermediate values
theorem witness_FoFollowsItsSteps : (0x00000000#32) = 0x0000#16 ++ 0x0000#16 ∧
    0x18DF#16 = fi (0x0000 ^^^ katSet.word .ko1 0) (katSet.word .ki1 0) ^^^ 0x0000 ∧
    0x8807#16 = fi (0x0000 ^^^ katSet.word .ko2 0) (katSet.word .ki2 0) ^^^ 0x18DF ∧
    0x035B#16 = fi (0x18DF ^^^ katSet.word .ko3 0) (katSet.word .ki3 0) ^^^ 0x8807 := by decide +kernel

-- V-O3's intermediate values
theorem witness_FlFollowsItsSteps : (0xFFFFFFFF#32) = 0xFFFF#16 ++ 0xFFFF#16 ∧
    0x57AC#16 = 0xFFFF &&& katSet.word .kl1 0 ∧ 0x50A7#16 = 0xFFFF ^^^ rol16 0x57AC 1 ∧
    0x5BEF#16 = 0x50A7 ||| katSet.word .kl2 0 ∧ 0x4821#16 = 0xFFFF ^^^ rol16 0x5BEF 1 := by decide +kernel

-- V-K1's round trace
theorem witness_KasumiRunsTheEightRounds :
    0xF5DB5AB3#32 = 0xAD5C4D84 ^^^ fo katSet 0 (fl katSet 0 0xEA024714) ∧
    0x161B54E1#32 = 0xEA024714 ^^^ fl katSet 1 (fo katSet 1 0xF5DB5AB3) ∧
    0x0C12818C#32 = 0xF5DB5AB3 ^^^ fo katSet 2 (fl katSet 2 0x161B54E1) ∧
    0x18E6AEFB#32 = 0x161B54E1 ^^^ fl katSet 3 (fo katSet 3 0x0C12818C) ∧
    0xDDE8586C#32 = 0x0C12818C ^^^ fo katSet 4 (fl katSet 4 0x18E6AEFB) ∧
    0x5E58EF61#32 = 0x18E6AEFB ^^^ fl katSet 5 (fo katSet 5 0xDDE8586C) ∧
    0x1C0BF45F#32 = 0xDDE8586C ^^^ fo katSet 6 (fl katSet 6 0x5E58EF61) ∧
    0xDF1F9B25#32 = 0x5E58EF61 ^^^ fl katSet 7 (fo katSet 7 0x1C0BF45F) := by decide +kernel

/-- Slot 1 of another state, loaded with the same key. -/
def katInSlot1 : State := { State.reset with slots := [Slot.empty, ⟨true, katSet⟩] }

theorem witness_KasumiDependsOnBlockAndSubkeysOnly :
    katState.slot 0 = some ⟨true, katSet⟩ ∧ katInSlot1.slot 1 = some ⟨true, katSet⟩ ∧
    (∀ (role : Role) (n : RIdx), katSet.word role n = katSet.word role n) ∧
    (0 : SlotNo).toNat < katState.numSlots ∧ (1 : SlotNo).toNat < katInSlot1.numSlots := by
  exact ⟨by decide +kernel, by decide +kernel, fun _ _ => rfl, by decide, by decide⟩

theorem witness_LoadkeyFollowsItsRule : (1 : SlotNo).toNat < State.reset.numSlots ∧
    State.reset.numSlots ≤ (2 : SlotNo).toNat ∧ (⟨0x00000101, 0⟩ : Command).op = 0x1 ∧
    (⟨0x00000101, 0⟩ : Command).ridx ≠ 0 ∧ (⟨0x00000801, 0⟩ : Command).clr ≠ 0 ∧
    (⟨0x00001001, 0⟩ : Command).rsvd ≠ 0 ∧ (0 : Nat) ≠ (1 : SlotNo).toNat := by decide

theorem witness_ClearkeyFollowsItsRule : (1 : SlotNo).toNat < katState.numSlots ∧
    katState.slot 1 = some Slot.empty ∧ (katState.slot 1).map Slot.kv = some false ∧
    State.reset.numSlots ≤ (2 : SlotNo).toNat ∧ (⟨0x00000702, 0⟩ : Command).op = 0x2 ∧
    (⟨0x00000702, 0⟩ : Command).ridx ≠ 0 ∧ (⟨0x00000802, 0⟩ : Command).clr ≠ 0 ∧
    (⟨0x80000002, 0⟩ : Command).rsvd ≠ 0 ∧ (0 : Nat) ≠ (1 : SlotNo).toNat := by decide +kernel

/-- An instruction that is no LOADKEY of slot 1 answers a next state where slot 1 has no key. -/
theorem witness_ClearkeyFollowsItsRule_next : (∀ key : Key, Instr.loadkey 0 kat ≠ .loadkey 1 key) ∧
    ∃ t, exec (.loadkey 0 kat) katState = .next t := ⟨fun _ h => by injection h; contradiction, _, rfl⟩

theorem witness_KasumiCommandFollowsItsRule : katState.slot 0 = some ⟨true, katSet⟩ ∧
    katState.numSlots ≤ (2 : SlotNo).toNat ∧ katState.slot 1 = some ⟨false, SubkeySet.zero⟩ ∧
    (⟨0x00000103, 0⟩ : Command).op = 0x3 ∧ (⟨0x00000103, 0⟩ : Command).ridx ≠ 0 ∧
    (⟨0x00000803, 0⟩ : Command).clr ≠ 0 ∧ (⟨0x80000003, 0⟩ : Command).rsvd ≠ 0 ∧
    (1 : SlotNo).toNat < katState.numSlots := by decide +kernel

theorem witness_FoCommandFollowsItsRule : katState.slot 0 = some ⟨true, katSet⟩ ∧
    katState.numSlots ≤ (2 : SlotNo).toNat ∧ katState.slot 1 = some ⟨false, SubkeySet.zero⟩ ∧
    (⟨0x00000804, 0⟩ : Command).op = 0x4 ∧ (⟨0x00000804, 0⟩ : Command).clr ≠ 0 ∧
    (⟨0x00001004, 0⟩ : Command).op = 0x4 ∧ (⟨0x00001004, 0⟩ : Command).rsvd ≠ 0 := by decide +kernel

theorem witness_FlCommandFollowsItsRule : katState.slot 0 = some ⟨true, katSet⟩ ∧
    katState.numSlots ≤ (2 : SlotNo).toNat ∧ katState.slot 1 = some ⟨false, SubkeySet.zero⟩ ∧
    (⟨0x00000805, 0⟩ : Command).op = 0x5 ∧ (⟨0x00000805, 0⟩ : Command).clr ≠ 0 ∧
    (⟨0x00001005, 0⟩ : Command).op = 0x5 ∧ (⟨0x00001005, 0⟩ : Command).rsvd ≠ 0 := by decide +kernel

theorem witness_FiCommandFollowsItsRule : decode ⟨0x00000006, 0xABCD1234⟩ = .ok (.fi 0x1234 0xABCD) ∧
    (⟨0x00000016, 0⟩ : Command).op = 0x6 ∧ (⟨0x00000016, 0⟩ : Command).slot ≠ 0 ∧
    (⟨0x00000106, 0⟩ : Command).ridx ≠ 0 ∧ (⟨0x00000806, 0⟩ : Command).clr ≠ 0 ∧
    (⟨0x00001006, 0⟩ : Command).rsvd ≠ 0 := ⟨rfl, by decide⟩

theorem witness_StatusCommandFollowsItsRule : loggedState.LegalNumSlots ∧ (State.resetWith 1).LegalNumSlots ∧
    (State.resetWith 16).LegalNumSlots ∧ (⟨0x00000817, 0⟩ : Command).op = 0x7 ∧
    (⟨0x00000817, 0⟩ : Command).slot ≠ 0 ∧ (⟨0x00000107, 0⟩ : Command).ridx ≠ 0 ∧
    (⟨0x00001007, 0⟩ : Command).rsvd ≠ 0 := by decide

theorem witness_ErrorLogFollowsTheResponses :
    (∃ t, runCommand ⟨0x00000000, 0⟩ katState = .next t ∧ t.pending = katState.pending ++ [⟨.eOpcode, 0⟩]) ∧
    (∃ t, runCommand ⟨0x00000807, 0⟩ State.reset = .next t ∧
      t.pending = State.reset.pending ++ [⟨.ok, State.reset.statusWord⟩]) ∧
    decode ⟨0x00000807, 0⟩ = .ok (.status true) ∧
    (∃ t, runCommand ⟨0x00000002, 0⟩ katState = .next t ∧ t.pending = katState.pending ++ [⟨.ok, 0⟩]) ∧
    (offered [resetPulse]).edges = [resetPulse] ∧ resetPulse.rstN = false :=
  ⟨⟨_, rfl, rfl⟩, ⟨_, rfl, rfl⟩, rfl, ⟨_, rfl, rfl⟩, rfl, rfl⟩

theorem witness_SideEffectsOfEachCommand :
    (Instr.fi 0 0).computes = true ∧
    (∃ t d, exec (.fi 0 0) katState = .next t ∧ t.pending = katState.pending ++ [⟨.ok, d⟩]) ∧
    (Instr.loadkey 1 kat).writesSlot = true ∧ (Instr.loadkey 1 kat).slotOperand = some 1 ∧
    (∃ t, exec (.loadkey 1 kat) katState = .next t ∧ t.pending = katState.pending ++ [⟨.ok, 0⟩]) ∧
    (0 : Nat) ≠ (1 : SlotNo).toNat ∧
    (∃ t, exec (.clearkey 2) katState = .next t ∧ t.pending = katState.pending ++ [⟨.eSlot, 0⟩]) ∧
    (Instr.clearkey 2).isStatus = false :=
  ⟨rfl, ⟨_, _, rfl, rfl⟩, rfl, rfl, ⟨_, rfl, rfl⟩, by decide, ⟨_, rfl, rfl⟩, rfl⟩

theorem witness_FrameOfCommandsThatWriteNoSlot : (Instr.fi 0 0).writesSlot = false ∧ Instr.fi 0 0 ≠ .status true ∧
    ∃ t, exec (.fi 0 0) loggedState = .next t := ⟨rfl, by decide, _, rfl⟩

theorem witness_SlotChangesOnlyByLoadClearOrReset :
    (∃ t, step { katState with edges := [offer 0x00000002 0] } = .next t ∧
      t.slots[0]? ≠ ({ katState with edges := [offer 0x00000002 0] } : State).slots[0]?) ∧
    (∃ t, step { katState with edges := [resetPulse] } = .next t ∧
      t.slots[0]? ≠ ({ katState with edges := [resetPulse] } : State).slots[0]?) :=
  ⟨⟨_, rfl, by decide +kernel⟩, ⟨_, rfl, by decide +kernel⟩⟩

theorem witness_SlotsAreIndependent : (Instr.loadkey 1 kat).slotOperand ≠ some 0 ∧
    (∃ t, exec (.loadkey 1 kat) katState = .next t) ∧ (Instr.clearkey 0).slotOperand = some 0 ∧
    katState.slot 0 = loggedState.slot 0 ∧ (∃ t, exec (.clearkey 0) katState = .next t) ∧
    ∃ t, exec (.clearkey 0) loggedState = .next t := ⟨by decide, ⟨_, rfl⟩, rfl, rfl, ⟨_, rfl⟩, ⟨_, rfl⟩⟩

theorem witness_SubkeysShowOnlyInCipherResults : katState.SameButSubkeys zeroKeyState ∧
    (∃ t, exec (.status false) katState = .next t) ∧ (∃ t, exec (.status false) zeroKeyState = .next t) ∧
    (∀ slot block, Instr.status false ≠ .kasumi slot block) ∧ (∀ slot n x, Instr.status false ≠ .fo slot n x) ∧
    (∀ slot n x, Instr.status false ≠ .fl slot n x) :=
  ⟨⟨rfl, rfl⟩, ⟨_, rfl⟩, ⟨_, rfl⟩, fun _ _ h => (nomatch h), fun _ _ _ h => (nomatch h), fun _ _ _ h => (nomatch h)⟩

theorem witness_ResetStateHasTheSpecsValues : (1 : Nat) ≤ 1 ∧ (1 : Nat) ≤ 16 ∧ (16 : Nat) ≤ 16 ∧
    (15 : SlotNo).toNat < 16 := by decide

theorem witness_ResetMeetsTheInvariant : (1 : Nat) ≤ 1 ∧ (1 : Nat) ≤ 16 ∧ (16 : Nat) ≤ 16 := by decide

theorem witness_StepKeepsTheInvariant : State.reset.Inv ∧ loggedState.Inv ∧
    ∃ t, step { loggedState with edges := [offer 0x00000021 0] } = .next t :=
  ⟨by decide, by decide +kernel, _, rfl⟩

theorem witness_StepKeepsKeyedSlotsDerived : katState.KeyedSlotsDerived ∧
    ∃ t, step { katState with edges := [offer 0x00000001 0] } = .next t := by
  refine ⟨?_, _, rfl⟩
  intro sl hsl hv
  rcases List.mem_pair.1 hsl with rfl | rfl
  · exact ⟨kat, rfl⟩
  · cases hv

theorem witness_ResetDiscardsCommandsInFlight : (offered [resetPulse]).edges = [resetPulse] ∧ resetPulse.rstN = false ∧
    (offered [resetPulse]).pending ≠ [] := by decide

theorem witness_StepRunsTheDecodedInstruction :
    (offered [offer 0x00000007 0]).edges = [offer 0x00000007 0] ∧ (offer 0x00000007 0).rstN = true ∧
    (offered [offer 0x00000007 0]).cmdReady = true ∧ (offer 0x00000007 0).cmdValid = true ∧
    decode (offer 0x00000007 0).command = .ok (.status false) ∧
    ∃ t, exec (.status false) (((offered [offer 0x00000007 0]).withEdges []).responseEdge (offer 0x00000007 0)) =
      .next t := ⟨rfl, rfl, rfl, rfl, rfl, _, rfl⟩

theorem witness_StepRaisesTheDecodersError :
    (offered [offer 0x00000008 0]).edges = [offer 0x00000008 0] ∧ (offer 0x00000008 0).rstN = true ∧
    (offered [offer 0x00000008 0]).cmdReady = true ∧ (offer 0x00000008 0).cmdValid = true ∧
    decode (offer 0x00000008 0).command = .error .opcode ∧ decode (offer 0x00000016 0).command = .error .reserved :=
  ⟨rfl, rfl, rfl, rfl, rfl, rfl⟩

theorem witness_IdleCoreKeepsItsState : State.reset.edges = [] ∧ (offered [take]).edges = [take] ∧ take.rstN = true ∧
    take.cmdValid = false ∧ ({ katState with cmdReady := false } : State).cmdReady = false := by decide

theorem witness_OfferedResponseIsHeldStable : (offered [offer 0x00000001 0]).edges = [offer 0x00000001 0] ∧
    (offer 0x00000001 0).rstN = true ∧ (offer 0x00000001 0).rspReady = false ∧
    (offered [offer 0x00000001 0]).rspPort = some ⟨.ok, 7⟩ ∧
    (next (offered [offer 0x00000001 0])).map State.rspValid = some true := by decide +kernel

theorem witness_OneResponsePerCommandInOrder : (offered [{ offer 0x00000000 0 with rspReady := true }]).edges =
    [{ offer 0x00000000 0 with rspReady := true }] ∧ (offer 0x00000000 0).rstN = true := ⟨rfl, rfl⟩

/-! ## Runs of command sequences (R107, R108) -/

/-- One STATUS is offered, and then its response is taken. -/
def statusRun (es : List Edge) : State := { State.reset with edges := offer 0x00000007 0 :: es }

-- R108: with the response not delivered, the run has not ended
theorem test_run_has_not_ended (t : State) : ¬(statusRun []).RunEnded 1 [⟨0x00000007, 0⟩] t := by
  intro h
  injection h.runs with ht
  have := h.answered
  rw [← ht] at this
  exact absurd this (by decide)

/-- An edge at which nothing transfers. -/
def idle : Edge := { take with rspReady := false }

theorem witness_EndedRunIsTheRunAtTransactionLevel :
    (∃ t, (statusRun [take]).RunEnded 2 [⟨0x00000007, 0⟩] t) ∧
    (∃ t, (statusRun [idle, take]).RunEnded 3 [⟨0x00000007, 0⟩] t) ∧
    (statusRun [take]).SameArchitectural (statusRun [idle, take]) ∧
    (statusRun [take]).delivered = (statusRun [idle, take]).delivered ∧
    (statusRun [take]).pending = (statusRun [idle, take]).pending :=
  ⟨⟨_, rfl, by unfold State.NoResetFor; decide, rfl, rfl⟩, ⟨_, rfl, by unfold State.NoResetFor; decide, rfl, rfl⟩,
    ⟨rfl, rfl, rfl⟩, rfl, rfl⟩

theorem witness_EveryTransferredCommandIsAnswered : Fair (fun _ => take) ∧
    (∃ t, ((offered []).fed (fun _ => take) 1).RunsTo 1 t ∧ t.pending ≠ []) ∧
    ∀ k : Nat, 1 ≤ k → ((fun _ => take : Nat → Edge) k).cmdValid = false :=
  ⟨⟨fun _ => rfl, fun n => ⟨n, Nat.le_refl n, rfl⟩, fun n => ⟨n, Nat.le_refl n, fun _ _ _ => rfl⟩⟩,
    ⟨_, rfl, by decide⟩, fun _ _ => rfl⟩

end Sys2Proof.Tests
end

section
/-! The error log after every command and after a reset (10_state.md R23). -/

namespace Sys2Proof.Machine

/-- The decoder's refusals are answered with errors. -/
theorem rejectStatus_ne_ok (r : Reject) : rejectStatus r ≠ .ok := by
  cases r <;> decide

/-- Every instruction's effect on the error log and its response: an error is raised; STATUS clr clears the log and shows
the word before the clear; any other OK leaves the log alone. -/
theorem exec_errorLog {i : Instr} {s t : State} (h : exec i s = .next t) :
    (∃ e, e ≠ .ok ∧ t = s.raise e) ∨
    (i = .status true ∧ t = s.clearLog.respond .ok s.statusWord) ∨
    (i ≠ .status true ∧ ∃ d, t.pending = s.pending ++ [⟨.ok, d⟩] ∧ t.lastErr = s.lastErr ∧
      t.errSticky = s.errSticky) := by
  rcases exec_next h with error | ⟨hc, d, rfl⟩ | ⟨slot, key, rfl, -, rfl⟩ | ⟨slot, rfl, -, rfl⟩ | clear | ⟨rfl, rfl⟩
  · exact .inl error
  · have hi : i ≠ .status true := fun hi => by simp [hi, Instr.computes] at hc
    exact .inr (.inr ⟨hi, d, by simp⟩)
  · exact .inr (.inr ⟨by simp, 0, by simp⟩)
  · exact .inr (.inr ⟨by simp, 0, by simp⟩)
  · exact .inr (.inl clear)
  · exact .inr (.inr ⟨by simp, s.statusWord, by simp⟩)

/-- Every command's effect on the error log and its response, the decoder's errors included. -/
theorem runCommand_errorLog {c : Command} {s t : State} (h : runCommand c s = .next t) :
    (∃ e, e ≠ .ok ∧ t = s.raise e) ∨
    (decode c = .ok (.status true) ∧ t = s.clearLog.respond .ok s.statusWord) ∨
    (decode c ≠ .ok (.status true) ∧ ∃ d, t.pending = s.pending ++ [⟨.ok, d⟩] ∧ t.lastErr = s.lastErr ∧
      t.errSticky = s.errSticky) := by
  rcases runCommand_next h with ⟨r, -, ht⟩ | ⟨i, hd, hi⟩
  · exact .inl ⟨rejectStatus r, rejectStatus_ne_ok r, ht⟩
  · simpa [hd] using exec_errorLog hi

/-- A step at an edge with `rst_n = 0` is a reset, whatever else stands at the edge (70_reset_and_hazards.md R99). -/
theorem step_reset {s : State} {e : Edge} {rest : List Edge} (hs : s.edges = e :: rest) (hr : e.rstN = false) :
    step s = .next ((s.withEdges rest).resetEdge e) := by
  simp only [step, hs, clockEdge, hr]

/-- Settles O28: by the three effects a command can have on the log, and by the reset edge. -/
theorem errorLogFollowsTheResponses : Obligations.ErrorLogFollowsTheResponses := by
  unfold Obligations.ErrorLogFollowsTheResponses
  refine ⟨fun c s t h => ?_, fun s e rest hs hr => ⟨_, step_reset hs hr, by simp⟩⟩
  rcases runCommand_errorLog h with ⟨e, he, rfl⟩ | ⟨hc, rfl⟩ | ⟨hc, d, hp, hl, hst⟩
  · exact ⟨⟨e, 0⟩, by simp [he]⟩
  · exact ⟨⟨.ok, s.statusWord⟩, by simp [hc]⟩
  · exact ⟨⟨.ok, d⟩, by simp [hc, hp, hl, hst]⟩

end Sys2Proof.Machine
end

section
/-! The command word built from its fields (30_encoding.md R47), and what decodes from it. -/

namespace Sys2Proof

open Sys2Proof.Machine

@[simp] theorem opField_commandWord (op : BitVec 4) (slot : SlotNo) (ridx : RIdx) (clr : Bool) :
    opField (commandWord op slot ridx clr) = op :=
  (BitVec.extractLsb'_append_eq_of_add_le (by decide)).trans <|
    (BitVec.extractLsb'_append_eq_of_add_le (by decide)).trans <|
      (BitVec.extractLsb'_append_eq_of_add_le (by decide)).trans BitVec.extractLsb'_append_eq_right

@[simp] theorem slotField_commandWord (op : BitVec 4) (slot : SlotNo) (ridx : RIdx) (clr : Bool) :
    slotField (commandWord op slot ridx clr) = slot :=
  (BitVec.extractLsb'_append_eq_of_add_le (by decide)).trans <|
    (BitVec.extractLsb'_append_eq_of_add_le (by decide)).trans <|
      (BitVec.extractLsb'_append_eq_of_add_le (by decide)).trans BitVec.extractLsb'_append_eq_left

@[simp] theorem ridxField_commandWord (op : BitVec 4) (slot : SlotNo) (ridx : RIdx) (clr : Bool) :
    ridxField (commandWord op slot ridx clr) = ridx :=
  (BitVec.extractLsb'_append_eq_of_add_le (by decide)).trans <|
    (BitVec.extractLsb'_append_eq_of_add_le (by decide)).trans BitVec.extractLsb'_append_eq_left

@[simp] theorem clrField_commandWord (op : BitVec 4) (slot : SlotNo) (ridx : RIdx) (clr : Bool) :
    clrField (commandWord op slot ridx clr) = clr :=
  BitVec.getLsbD_append.trans <| BitVec.getLsbD_append.trans <| by simp

@[simp] theorem rsvdField_commandWord (op : BitVec 4) (slot : SlotNo) (ridx : RIdx) (clr : Bool) :
    rsvdField (commandWord op slot ridx clr) = 0 :=
  BitVec.extractLsb'_append_eq_left

/-- The number a command word stands for: each field at its place. -/
theorem commandWord_toNat (op : BitVec 4) (slot : SlotNo) (ridx : RIdx) (clr : Bool) :
    (commandWord op slot ridx clr).toNat =
      clr.toNat <<< 11 ||| (ridx.toNat <<< 8 ||| (slot.toNat <<< 4 ||| op.toNat)) := by
  change (0#20 ++ (BitVec.ofBool clr ++ (ridx ++ (slot ++ op)))).toNat = _
  simp only [BitVec.toNat_append, BitVec.toNat_ofBool, BitVec.toNat_zero, Nat.zero_shiftLeft, Nat.zero_or]

/-- The fields moved to their places and joined by OR make the command word (CLR = 0). -/
theorem commandWord_eq_or_shifts (op : BitVec 4) (slot : SlotNo) (ridx : RIdx) :
    commandWord op slot ridx false = op.setWidth 32 ||| (slot.setWidth 32 <<< 4) ||| (ridx.setWidth 32 <<< 8) := by
  have hop := op.isLt
  have hslot := slot.isLt
  have hridx := ridx.isLt
  apply BitVec.eq_of_toNat_eq
  rw [commandWord_toNat]
  simp only [BitVec.toNat_or, BitVec.toNat_shiftLeft, BitVec.toNat_setWidth, Bool.toNat_false, Nat.shiftLeft_eq]
  simp (disch := omega) only [Nat.mod_eq_of_lt, Nat.zero_mul, Nat.zero_or]
  ac_rfl

/-- A command word with a legal opcode and its unused fields 0 decodes to the instruction of its fields. -/
theorem decode_commandWord {op : BitVec 4} {slot : SlotNo} {ridx : RIdx} {clr : Bool} (hop : legalOp op = true)
    (hz : unusedFieldsZero op slot ridx clr = true) (d : BitVec 128) :
    decode ⟨commandWord op slot ridx clr, d⟩ = .ok (instrOf op slot ridx clr d) := by
  simp [decode, hop, hz]

/-- The same for a command word written as fields moved to their places. -/
theorem decode_or_shifts {op : BitVec 4} {slot : SlotNo} {ridx : RIdx} (hop : legalOp op = true)
    (hz : unusedFieldsZero op slot ridx false = true) (d : BitVec 128) :
    decode ⟨op.setWidth 32 ||| (slot.setWidth 32 <<< 4) ||| (ridx.setWidth 32 <<< 8), d⟩ =
      .ok (instrOf op slot ridx false d) :=
  commandWord_eq_or_shifts op slot ridx ▸ decode_commandWord hop hz d

/-- Two data words that give the opcode the same operands decode to the same, whatever the other fields. -/
theorem decode_congr_data {w : BitVec 32} {d d' : BitVec 128}
    (h : ∀ slot ridx clr, instrOf (opField w) slot ridx clr d = instrOf (opField w) slot ridx clr d') :
    decode ⟨w, d⟩ = decode ⟨w, d'⟩ := by
  simp [decode, h]

end Sys2Proof
end

section
/-! Operands and results on the 128-bit and 64-bit data ports (20_memory.md R34, R36). -/

namespace Sys2Proof.Machine

/-- FI's input and subkey are the low and the high half of the 32 bits it uses. -/
theorem fiInput_eq_lowWord (d : BitVec 128) : fiInput d = lowWord (halfOperand d) :=
  (BitVec.extractLsb'_extractLsb'_of_le (by decide)).symm

theorem fiSubkey_eq_highWord (d : BitVec 128) : fiSubkey d = highWord (halfOperand d) :=
  (BitVec.extractLsb'_extractLsb'_of_le (by decide)).symm

/-- A result put in the low bits of `rsp_data` is read back from there. -/
theorem extractLsb'_setWidth_low {w v : Nat} (x : BitVec w) (h : w ≤ v) : (x.setWidth v).extractLsb' 0 w = x := by
  rw [BitVec.extractLsb'_setWidth_of_le (by omega), BitVec.extractLsb'_eq_self]

/-- The bits of `rsp_data` above a narrow result are 0. -/
theorem extractLsb'_setWidth_high {w v : Nat} (x : BitVec w) (n : Nat) : (x.setWidth v).extractLsb' w n = 0#n := by
  ext i hi
  simp

/-- Two key bytes in a row, the first one high, are the 16 bits they cover. -/
theorem keyByte_append_keyByte (key : Key) {i : Nat} (h : i < 15) :
    keyByte key i ++ keyByte key (i + 1) = key.extractLsb' (112 - 8 * i) 16 :=
  (BitVec.extractLsb'_append_extractLsb'_eq_extractLsb' (by omega)).trans <| by
    rw [show 120 - 8 * (i + 1) = 112 - 8 * i by omega]

/-- Key word `n` is key bytes `2n` and `2n + 1`, the first one high (41_key_schedule.md R56). -/
theorem keyWord_eq_keyBytes (key : Key) (n : RIdx) :
    keyWord key n = keyByte key (2 * n.toNat) ++ keyByte key (2 * n.toNat + 1) := by
  have hn := n.isLt
  rw [keyByte_append_keyByte key (by omega), keyWord, show 8 * (2 * n.toNat) = 16 * n.toNat by omega]

/-- Settles O7: LOADKEY's word is that of its fields, and a key word joins two key bytes. -/
theorem keyBytesAndWordsAreBigEndian : Obligations.KeyBytesAndWordsAreBigEndian := by
  unfold Obligations.KeyBytesAndWordsAreBigEndian
  refine ⟨fun slot d => ?_, fun _ _ _ => rfl, fun _ => ⟨rfl, rfl⟩, fun d n => ⟨keyWord_eq_keyBytes d n, rfl⟩⟩
  simpa [instrOf, keyOperand] using decode_or_shifts (op := 0x1) (slot := slot) (ridx := 0) rfl rfl d

/-- FO on a slot that holds a key answers OK with the function's value (43_fo_fl.md R74). -/
theorem exec_fo_keyed {s : State} {slot : SlotNo} {sl : Slot} (h : s.slot slot = some sl) (hv : sl.kv = true)
    (n : RIdx) (x : Half) : exec (.fo slot n x) s = .next (s.respond .ok ((fo sl.sk n x).setWidth 64)) :=
  withKey_keyed h hv fun sk => .next (s.respond .ok ((fo sk n x).setWidth 64))

/-- FL on a slot that holds a key answers OK with the function's value (43_fo_fl.md R75). -/
theorem exec_fl_keyed {s : State} {slot : SlotNo} {sl : Slot} (h : s.slot slot = some sl) (hv : sl.kv = true)
    (n : RIdx) (x : Half) : exec (.fl slot n x) s = .next (s.respond .ok ((fl sl.sk n x).setWidth 64)) :=
  withKey_keyed h hv fun sk => .next (s.respond .ok ((fl sk n x).setWidth 64))

/-- Two data words that agree on the used bits decode alike (20_memory.md R36). -/
theorem decode_ignores_unused_data (w : BitVec 32) (d d' : BitVec 128) :
    ((w.extractLsb' 0 4 = 0x2#4 ∨ w.extractLsb' 0 4 = 0x7#4) → decode ⟨w, d⟩ = decode ⟨w, d'⟩) ∧
    (w.extractLsb' 0 4 = 0x3#4 → d.extractLsb' 0 64 = d'.extractLsb' 0 64 → decode ⟨w, d⟩ = decode ⟨w, d'⟩) ∧
    ((w.extractLsb' 0 4 = 0x4#4 ∨ w.extractLsb' 0 4 = 0x5#4 ∨ w.extractLsb' 0 4 = 0x6#4) →
      d.extractLsb' 0 32 = d'.extractLsb' 0 32 → decode ⟨w, d⟩ = decode ⟨w, d'⟩) := by
  refine ⟨fun hop => ?_, fun hop (hd : blockOperand d = blockOperand d') => ?_,
    fun hop (hd : halfOperand d = halfOperand d') => ?_⟩ <;> refine decode_congr_data fun slot ridx clr => ?_
  · rcases hop with hop | hop <;> simp [instrOf, opField, hop]
  · simp [instrOf, opField, hop, hd]
  · rcases hop with hop | hop | hop <;> simp [instrOf, opField, hop, hd, fiInput_eq_lowWord, fiSubkey_eq_highWord]

/-- Settles O6: the words are those of their fields, the results are zero-extended, and the decoder reads only the used
bits. -/
theorem narrowOperandsAndIgnoredData : Obligations.NarrowOperandsAndIgnoredData := by
  unfold Obligations.NarrowOperandsAndIgnoredData
  refine ⟨fun slot n d => ⟨?_, ?_⟩, fun d => ?_, fun s slot sl n x h hv => ?_, fun s x k => ?_, fun _ => rfl,
    decode_ignores_unused_data⟩
  · exact decode_or_shifts (op := 0x4) rfl rfl d
  · exact decode_or_shifts (op := 0x5) rfl rfl d
  · exact decode_commandWord (op := 0x6) (slot := 0) (ridx := 0) (clr := false) rfl rfl d
  · exact ⟨⟨_, exec_fo_keyed h hv n x, extractLsb'_setWidth_low _ (by decide), extractLsb'_setWidth_high _ 32⟩,
      ⟨_, exec_fl_keyed h hv n x, extractLsb'_setWidth_low _ (by decide), extractLsb'_setWidth_high _ 32⟩⟩
  · exact ⟨_, rfl, extractLsb'_setWidth_low _ (by decide), extractLsb'_setWidth_high _ 48⟩

end Sys2Proof.Machine
end

section
/-! What each instruction changes and what repeating it does (20_memory.md R40). -/

namespace Sys2Proof

/-- No instruction both computes and writes a slot. -/
theorem Instr.writesSlot_eq_false_of_computes {i : Instr} (h : i.computes = true) : i.writesSlot = false := by
  cases i <;> simp_all [Instr.computes, Instr.writesSlot]

end Sys2Proof

namespace Sys2Proof.Machine

/-- Writing what a slot already holds changes nothing. -/
theorem State.writeSlot_eq_self {s : State} {k : SlotNo} {sl : Slot} (h : s.slot k = some sl) :
    s.writeSlot k sl = s := by
  obtain ⟨hk, rfl⟩ := List.getElem?_eq_some_iff.1 h
  simp [State.writeSlot]

/-- The response channel tells apart the responses added to it. -/
theorem response_eq {s t : State} {r r' : Response} (h : t.pending = s.pending ++ [r])
    (h' : t.pending = s.pending ++ [r']) : r = r' := by
  simpa using h.symm.trans h'

/-- A raised error does not answer OK. -/
theorem State.raise_pending_ne_ok (s : State) {e : Status} (he : e ≠ .ok) (d : BitVec 64) :
    (s.raise e).pending ≠ s.pending ++ [⟨.ok, d⟩] :=
  fun hp => he (congrArg Response.status (response_eq (s.raise_pending e) hp))

/-- Of three joined fields, the bits above the lowest are the upper two joined. -/
theorem extractLsb'_append_append {u v w : Nat} (a : BitVec u) (b : BitVec v) (c : BitVec w) :
    (a ++ (b ++ c)).extractLsb' w (u + v) = a ++ b := by
  rw [BitVec.append_assoc', BitVec.extractLsb'_cast, BitVec.extractLsb'_append_eq_left]

/-- Bits 28:24 of the status word are the error log (45_status.md R84). -/
theorem State.statusWord_log (s : State) :
    s.statusWord.extractLsb' 24 5 = BitVec.ofBool s.errSticky ++ s.lastErr :=
  (BitVec.extractLsb'_append_eq_of_add_le (by decide)).trans <|
    (BitVec.extractLsb'_append_eq_of_add_le (by decide)).trans <| extractLsb'_append_append _ _ _

/-- A clear log shows as five 0 bits. -/
theorem State.statusWord_log_clear {s : State} (hs : s.errSticky = false) (hl : s.lastErr = 0) :
    s.statusWord.extractLsb' 24 5 = 0#5 := by
  rw [s.statusWord_log, hs, hl]
  decide

/-- Between `s` and `t` the channel gained one response, and `i` run at `t` adds it again and changes nothing else. -/
def RepeatsFrom (i : Instr) (s t : State) : Prop :=
  ∃ r : Response, t.pending = s.pending ++ [r] ∧ exec i t = .next { t with pending := t.pending ++ [r] }

/-- A command that answers with a function of a slot's subkeys, or the error it raises, answers the same again. -/
theorem repeatsFrom_of_withKey {i : Instr} {k : SlotNo} {f : SubkeySet → BitVec 64} {s t : State}
    (hi : ∀ s, exec i s = withKey k s fun sk => .next (s.respond .ok (f sk))) (h : exec i s = .next t) :
    RepeatsFrom i s t := by
  rcases withKey_next ((hi s).symm.trans h) with ⟨hk, rfl⟩ | ⟨sl, hk, hv, rfl⟩ | ⟨sl, hk, hv, ht⟩
  · exact ⟨⟨.eSlot, 0⟩, rfl, (hi _).trans (withSlot_none (s := s.raise .eSlot) hk _)⟩
  · exact ⟨⟨.eNoKey, 0⟩, rfl, (hi _).trans (withKey_unkeyed (s := s.raise .eNoKey) hk hv _)⟩
  · injection ht with ht
    subst ht
    exact ⟨⟨.ok, f sl.sk⟩, rfl, (hi _).trans (withKey_keyed (s := s.respond .ok (f sl.sk)) hk hv _)⟩

/-- A command that writes fixed contents to a slot, or raises E_SLOT, does the same again: the slot already holds
them. -/
theorem repeatsFrom_of_withSlot {i : Instr} {k : SlotNo} {new : Slot} {s t : State}
    (hi : ∀ s, exec i s = withSlot k s fun _ => .next ((s.writeSlot k new).respond .ok 0)) (h : exec i s = .next t) :
    RepeatsFrom i s t := by
  rcases withSlot_next ((hi s).symm.trans h) with ⟨hk, rfl⟩ | ⟨sl, hk, ht⟩
  · exact ⟨⟨.eSlot, 0⟩, rfl, (hi _).trans (withSlot_none (s := s.raise .eSlot) hk _)⟩
  · injection ht with ht
    subst ht
    have held : ((s.writeSlot k new).respond .ok 0).slot k = some new :=
      s.writeSlot_slot_self k new ((s.slot_isSome_iff k).1 ⟨sl, hk⟩)
    refine ⟨⟨.ok, 0⟩, rfl, (hi _).trans ((withSlot_some held _).trans ?_)⟩
    rw [State.writeSlot_eq_self held]
    rfl

/-- Every instruction but STATUS repeats (20_memory.md R40). -/
theorem exec_repeats {i : Instr} {s t : State} (hi : i.isStatus = false) (h : exec i s = .next t) :
    RepeatsFrom i s t := by
  cases i with
  | loadkey slot key => exact repeatsFrom_of_withSlot (fun _ => rfl) h
  | clearkey slot => exact repeatsFrom_of_withSlot (fun _ => rfl) h
  | kasumi slot block => exact repeatsFrom_of_withKey (f := fun sk => kasumi sk block) (fun _ => rfl) h
  | fo slot ridx x => exact repeatsFrom_of_withKey (f := fun sk => (fo sk ridx x).setWidth 64) (fun _ => rfl) h
  | fl slot ridx x => exact repeatsFrom_of_withKey (f := fun sk => (fl sk ridx x).setWidth 64) (fun _ => rfl) h
  | fi x k =>
    injection h with h
    subst h
    exact ⟨_, rfl, rfl⟩
  | status clr => cases hi

/-- A computing instruction raises an error or answers OK and changes nothing else. -/
theorem exec_computes {i : Instr} {s t : State} (hi : i.computes = true) (h : exec i s = .next t) :
    (∃ e, e ≠ .ok ∧ t = s.raise e) ∨ ∃ d, t = s.respond .ok d := by
  rcases exec_next h with error | ⟨-, result⟩ | ⟨_, _, rfl, -⟩ | ⟨_, rfl, -⟩ | ⟨rfl, -⟩ | ⟨rfl, -⟩
  · exact .inl error
  · exact .inr result
  all_goals cases hi

/-- An instruction that writes a slot raises an error or writes the slot it names and answers OK. -/
theorem exec_writesSlot {i : Instr} {slot : SlotNo} {s t : State} (hi : i.writesSlot = true)
    (hs : i.slotOperand = some slot) (h : exec i s = .next t) :
    (∃ e, e ≠ .ok ∧ t = s.raise e) ∨ ∃ sl, t = (s.writeSlot slot sl).respond .ok 0 := by
  rcases exec_next h with error | ⟨hc, -⟩ | ⟨_, _, rfl, -, ht⟩ | ⟨_, rfl, -, ht⟩ | ⟨rfl, -⟩ | ⟨rfl, -⟩
  · exact .inl error
  · exact absurd (Instr.writesSlot_eq_false_of_computes hc) (by simp [hi])
  · injection hs with hs
    exact .inr ⟨_, hs ▸ ht⟩
  · injection hs with hs
    exact .inr ⟨_, hs ▸ ht⟩
  all_goals cases hi

/-- An instruction that answers with an error status raised that error. -/
theorem exec_error_eq_raise {i : Instr} {s t : State} {r : Response} (h : exec i s = .next t)
    (hp : t.pending = s.pending ++ [r]) (hr : r.status ≠ .ok) : t = s.raise r.status := by
  have okAnswer : ∀ {d : BitVec 64}, t.pending ≠ s.pending ++ [⟨.ok, d⟩] := fun hd => hr (response_eq hp hd ▸ rfl)
  rcases exec_errorLog h with ⟨e, -, rfl⟩ | ⟨-, rfl⟩ | ⟨-, d, hd, -⟩
  · rw [response_eq hp (s.raise_pending e)]
  · exact absurd rfl okAnswer
  · exact absurd hd okAnswer

/-- Settles O29: every answer of an instruction is a raise, a bare result, a slot written or the log cleared, and each of
them repeats. -/
theorem sideEffectsOfEachCommand : Obligations.SideEffectsOfEachCommand := by
  unfold Obligations.SideEffectsOfEachCommand
  refine ⟨fun i s t d hi h hp => ?_, fun i slot s t hi hs h => ?_, fun _ => ⟨rfl, rfl⟩,
    fun _ _ _ _ h hp hr => exec_error_eq_raise h hp hr, fun _ _ _ hi h => exec_repeats hi h,
    fun s => ⟨_, _, _, rfl, rfl, rfl, State.statusWord_log_clear rfl rfl⟩⟩
  · rcases exec_computes hi h with ⟨e, he, rfl⟩ | ⟨d', rfl⟩
    · exact absurd hp (s.raise_pending_ne_ok he d)
    · obtain rfl : d' = d := congrArg Response.data (response_eq (s.respond_pending .ok d') hp)
      rfl
  · rcases exec_writesSlot hi hs h with ⟨e, he, rfl⟩ | ⟨sl, rfl⟩
    · exact ⟨fun _ _ => rfl, rfl, fun hp => absurd hp (s.raise_pending_ne_ok he 0)⟩
    · exact ⟨fun j hj => s.writeSlot_slots_other slot sl j hj, s.writeSlot_numSlots slot sl, fun _ => rfl⟩

end Sys2Proof.Machine
end

section
/-! The checks of a command in the order of 30_encoding.md R53: the decoder's two, then the instruction's two on
the slot it names. -/

namespace Sys2Proof

open Sys2Proof.Machine

/-- The seven legal opcodes (30_encoding.md R51). -/
theorem Command.op_of_legal {c : Command} (h : ¬c.IllegalOp) :
    c.op = 0x1 ∨ c.op = 0x2 ∨ c.op = 0x3 ∨ c.op = 0x4 ∨ c.op = 0x5 ∨ c.op = 0x6 ∨ c.op = 0x7 := by
  have all : ∀ op : BitVec 4, ¬(op = 0x0 ∨ 0x8 ≤ op.toNat) →
      op = 0x1 ∨ op = 0x2 ∨ op = 0x3 ∨ op = 0x4 ∨ op = 0x5 ∨ op = 0x6 ∨ op = 0x7 := by decide
  exact all c.op h

theorem legalOp_eq_false_iff (c : Command) : legalOp (opField c.word) = false ↔ c.IllegalOp := by
  have all : ∀ op : BitVec 4, legalOp op = false ↔ op = 0x0 ∨ 0x8 ≤ op.toNat := by decide
  exact all c.op

/-- The CLR bit as a Boolean and as a field of width 1. -/
theorem clrField_eq_decide (c : Command) : clrField c.word = decide (c.clr = 1) := by
  have all : ∀ clr : BitVec 1, clr.getLsbD 0 = decide (clr = 1) := by decide
  simpa [clrField] using all c.clr

/-- The decoder's two E_RESERVED checks together are the E_RESERVED lines of R53. -/
theorem reservedSet_iff {c : Command} (h : ¬c.IllegalOp) :
    c.ReservedSet ↔ rsvdField c.word ≠ 0 ∨
      unusedFieldsZero c.op c.slot c.ridx (decide (c.clr = 1)) = false := by
  have clr : c.clr ≠ 0 ↔ c.clr = 1 := by
    have all : ∀ clr : BitVec 1, clr ≠ 0 ↔ clr = 1 := by decide
    exact all c.clr
  refine or_congr Iff.rfl ?_
  rw [clr]
  rcases Command.op_of_legal h with hop | hop | hop | hop | hop | hop | hop <;>
    simp [hop, unusedFieldsZero, imp_iff_not_or, or_assoc]

/-- The decoder in terms of the command's fields: E_OPCODE, else E_RESERVED, else the instruction of its opcode. -/
theorem decode_eq_checks (c : Command) :
    decode c = if c.IllegalOp then .error .opcode else if c.ReservedSet then .error .reserved
      else .ok (instrOf c.op c.slot c.ridx (decide (c.clr = 1)) c.data) := by
  by_cases hop : c.IllegalOp
  · simp [decode, (legalOp_eq_false_iff c).2 hop, hop]
  · rw [if_neg hop, if_congr (reservedSet_iff hop) rfl rfl, decode, if_neg (mt (legalOp_eq_false_iff c).1 hop),
      clrField_eq_decide, ite_or]
    rfl

end Sys2Proof

namespace Sys2Proof.Machine

/-- An instruction that names a slot the core does not have raises E_SLOT, before any other effect. -/
theorem exec_missingSlot {i : Instr} {k : SlotNo} {s : State} (hi : i.slotOperand = some k)
    (hk : s.numSlots ≤ k.toNat) : exec i s = .next (s.raise .eSlot) := by
  have missing := (s.slot_eq_none_iff k).2 hk
  cases i with
  | loadkey | clearkey | kasumi | fo | fl => cases hi; exact withSlot_none missing _
  | fi | status => cases hi

/-- An instruction that computes with the subkeys of a slot without a key raises E_NOKEY. -/
theorem exec_unkeyedSlot {i : Instr} {k : SlotNo} {s : State} (hi : i.slotOperand = some k) (hc : i.computes = true)
    (hv : (s.slot k).map Slot.kv = some false) : exec i s = .next (s.raise .eNoKey) := by
  obtain ⟨sl, hk, hkv⟩ := Option.map_eq_some_iff.1 hv
  cases i with
  | kasumi _ block => cases hi; exact withKey_unkeyed hk hkv fun sk => .next (s.respond .ok (kasumi sk block))
  | fo _ n x => cases hi; exact withKey_unkeyed hk hkv fun sk => .next (s.respond .ok ((fo sk n x).setWidth 64))
  | fl _ n x => cases hi; exact withKey_unkeyed hk hkv fun sk => .next (s.respond .ok ((fl sk n x).setWidth 64))
  | loadkey | clearkey | status => cases hc
  | fi => cases hi

/-- The instruction of an opcode that uses SLOT names that slot. -/
theorem slotOperand_instrOf {c : Command} (h : c.UsesSlot) (clr : Bool) :
    (instrOf c.op c.slot c.ridx clr c.data).slotOperand = some c.slot := by
  rcases h with hop | hop | hop | hop | hop <;> simp [hop, instrOf, Instr.slotOperand]

/-- The instruction of an opcode that needs a key computes with its slot's subkeys. -/
theorem computes_instrOf {c : Command} (h : c.NeedsKey) (clr : Bool) :
    (instrOf c.op c.slot c.ridx clr c.data).computes = true := by
  rcases h with hop | hop | hop <;> simp [hop, instrOf, Instr.computes]

/-- A command in which a check of the decoder fails raises its error; any other executes its instruction. -/
theorem runCommand_eq_checks (c : Command) (s : State) :
    runCommand c s = if c.IllegalOp then .next (s.raise .eOpcode) else if c.ReservedSet then .next (s.raise .eReserved)
      else exec (instrOf c.op c.slot c.ridx (decide (c.clr = 1)) c.data) s := by
  rw [runCommand, decode_eq_checks]
  split_ifs <;> rfl

/-- The core answers the decoder's refusal with the error of its reason. -/
theorem runCommand_error {c : Command} {r : Reject} (h : decode c = .error r) (s : State) :
    runCommand c s = .next (s.raise (rejectStatus r)) := by
  simp [runCommand, h]

/-- Settles O5: the decoder makes the first two checks and the instruction the other two, in which a failed check makes
the whole answer; every command has one answer. -/
theorem checksRunInOrderAndFirstErrorWins : Obligations.ChecksRunInOrderAndFirstErrorWins := by
  unfold Obligations.ChecksRunInOrderAndFirstErrorWins
  refine ⟨fun c s => ?_, fun c s => ?_, fun d s _ => ?_⟩
  · rw [runCommand_eq_checks]
    refine if_congr Iff.rfl rfl (if_congr Iff.rfl rfl ?_)
    split
    · next hslot =>
        obtain ⟨usesSlot, missing⟩ := hslot
        exact exec_missingSlot (slotOperand_instrOf usesSlot _) missing
    split
    · next hkey =>
        obtain ⟨needsKey, noKey⟩ := hkey
        exact exec_unkeyedSlot (slotOperand_instrOf (.inr (.inr needsKey)) _) (computes_instrOf needsKey _) noKey
    · simp only [instrOf, apply_ite (exec · s)]
      rfl
  · obtain ⟨_, _, _, r, h⟩ := runCommand_answers c s
    exact ⟨_, r, h s ⟨rfl, rfl, rfl⟩, rfl⟩
  · have hd : decode ⟨0x000010F3, d⟩ = .error .reserved := by simp [decode, opField, legalOp, rsvdField]
    exact runCommand_error hd s

end Sys2Proof.Machine
end

section
/-! The rotation and the words of the key schedule (41_key_schedule.md R55 to R59). -/

namespace Sys2Proof.Machine

/-- `rol16` is the rotation of the bit vector library, at every amount that R55 allows. -/
theorem rol16_eq_rotateLeft (v : Word) {r : Nat} (h : r < 16) : rol16 v r = v.rotateLeft r := by
  simp [rol16, BitVec.rotateLeft, BitVec.rotateLeftAux, Nat.mod_eq_of_lt h]

@[simp] theorem rol16_zero (r : Nat) : rol16 0#16 r = 0#16 := by
  simp [rol16]

/-- Bit `i` of a rotation is the bit `r` places below it, counted mod 16. -/
theorem rol16_getLsbD (v : Word) {r i : Nat} (hr : r < 16) (hi : i < 16) :
    (rol16 v r).getLsbD i = v.getLsbD ((i + 16 - r) % 16) := by
  rw [rol16_eq_rotateLeft v hr, BitVec.getLsbD_rotateLeft, Nat.mod_eq_of_lt hr]
  by_cases below : i < r
  · simp [below, show (i + 16 - r) % 16 = 16 - r + i by omega]
  · simp [below, hi, show (i + 16 - r) % 16 = i - r by omega]

/-- Settles O8: `rol16` is the library's rotation, whose bits are known. -/
theorem rotateLeftMovesEveryBit : Obligations.RotateLeftMovesEveryBit := by
  unfold Obligations.RotateLeftMovesEveryBit
  refine ⟨fun v r _ hr => ⟨rfl, fun i hi => rol16_getLsbD v (by omega) hi⟩, ?_⟩
  decide

/-- Every word of a derived subkey set is that of R59. -/
@[simp] theorem keySchedule_word (key : Key) (role : Role) (n : RIdx) :
    (keySchedule key).word role n = scheduleWord key role n :=
  SubkeySet.word_tabulate _ role n

/-- The wrapping sum of indices is the sum of R59, taken mod 8. -/
theorem ridx_add_ofNat (n : RIdx) (k : Nat) : n + BitVec.ofNat 3 k = BitVec.ofNat 3 ((n.toNat + k) % 8) := by
  apply BitVec.eq_of_toNat_eq
  simp

@[simp] theorem keyWord_zero (n : RIdx) : keyWord 0#128 n = 0#16 :=
  BitVec.extractLsb'_zero

/-- Settles O9: each role's word by the schedule, with its index sum as a number mod 8. -/
theorem keyScheduleWords : Obligations.KeyScheduleWords := by
  unfold Obligations.KeyScheduleWords
  refine ⟨by decide, fun _ _ => rfl, fun key n => ?_⟩
  simp only [keySchedule_word, ← ridx_add_ofNat]
  exact ⟨rfl, rfl, rfl, rfl, rfl, rfl, rfl, rfl⟩

end Sys2Proof.Machine
end

section
/-! The commands that write a slot: LOADKEY and CLEARKEY (41_key_schedule.md R61, R62). -/

namespace Sys2Proof

/-- The command word of an opcode that uses SLOT only. -/
theorem commandWord_slot_only (op : BitVec 4) (slot : SlotNo) :
    commandWord op slot 0 false = op.setWidth 32 ||| (slot.setWidth 32 <<< 4) :=
  (commandWord_eq_or_shifts op slot 0).trans (by simp)

end Sys2Proof

namespace Sys2Proof.Machine

/-- A command of a legal opcode with a must-be-0 field set raises E_RESERVED (30_encoding.md R53). -/
theorem runCommand_reserved {c : Command} (hop : ¬c.IllegalOp) (h : c.ReservedSet) (s : State) :
    runCommand c s = .next (s.raise .eReserved) := by
  rw [runCommand_eq_checks, if_neg hop, if_pos h]

/-- LOADKEY, CLEARKEY and KASUMI use SLOT only: RIDX, CLR or RSVD set raises E_RESERVED. -/
theorem runCommand_reserved_of_slotOnly {c : Command} (hop : c.op = 0x1 ∨ c.op = 0x2 ∨ c.op = 0x3)
    (h : c.ridx ≠ 0 ∨ c.clr ≠ 0 ∨ c.rsvd ≠ 0) (s : State) : runCommand c s = .next (s.raise .eReserved) := by
  have legal : ¬c.IllegalOp := by rcases hop with hop | hop | hop <;> simp [hop]
  refine runCommand_reserved legal ?_ s
  rcases h with h | h | h
  · exact .inr (.inl ⟨hop, .inl h⟩)
  · exact .inr (.inl ⟨hop, .inr h⟩)
  · exact .inl h

/-- LOADKEY of a slot that exists writes the key's subkey set with KV = 1. -/
theorem exec_loadkey {s : State} {slot : SlotNo} (h : slot.toNat < s.numSlots) (key : Key) :
    exec (.loadkey slot key) s = .next ((s.writeSlot slot ⟨true, keySchedule key⟩).respond .ok 0) :=
  let ⟨_, hs⟩ := (s.slot_isSome_iff slot).2 h
  withSlot_some hs _

/-- CLEARKEY of a slot that exists empties it. -/
theorem exec_clearkey {s : State} {slot : SlotNo} (h : slot.toNat < s.numSlots) :
    exec (.clearkey slot) s = .next ((s.writeSlot slot Slot.empty).respond .ok 0) :=
  let ⟨_, hs⟩ := (s.slot_isSome_iff slot).2 h
  withSlot_some hs _

/-- Writing a slot leaves every other slot alone, by slot number. -/
theorem State.writeSlot_slot_other (s : State) {j k : SlotNo} (sl : Slot) (h : j ≠ k) :
    (s.writeSlot k sl).slot j = s.slot j :=
  s.writeSlot_slots_other k sl j.toNat (BitVec.toNat_ne.1 h)

/-- What an instruction does with slot `k`: it is loaded, emptied, or as before. -/
theorem exec_slot_next {i : Instr} {s t : State} (h : exec i s = .next t) (k : SlotNo) :
    (∃ key, i = .loadkey k key ∧ t.slot k = some ⟨true, keySchedule key⟩) ∨
    (i = .clearkey k ∧ t.slot k = some Slot.empty) ∨ t.slot k = s.slot k := by
  rcases exec_next h with ⟨e, -, rfl⟩ | ⟨-, d, rfl⟩ | ⟨slot, key, rfl, hk, rfl⟩ | ⟨slot, rfl, hk, rfl⟩ | ⟨-, rfl⟩ |
    ⟨-, rfl⟩
  · exact .inr (.inr rfl)
  · exact .inr (.inr rfl)
  · by_cases named : k = slot
    · subst named
      exact .inl ⟨key, rfl, s.writeSlot_slot_self k _ hk⟩
    · exact .inr (.inr (s.writeSlot_slot_other _ named))
  · by_cases named : k = slot
    · subst named
      exact .inr (.inl ⟨rfl, s.writeSlot_slot_self k _ hk⟩)
    · exact .inr (.inr (s.writeSlot_slot_other _ named))
  · exact .inr (.inr rfl)
  · exact .inr (.inr rfl)

/-- A slot without a key stays so until a LOADKEY of it (41_key_schedule.md R62). -/
theorem exec_keeps_unkeyed {i : Instr} {s t : State} {k : SlotNo} (hv : (s.slot k).map Slot.kv = some false)
    (hi : ∀ key, i ≠ .loadkey k key) (h : exec i s = .next t) : (t.slot k).map Slot.kv = some false := by
  rcases exec_slot_next h k with ⟨key, load, -⟩ | ⟨-, empty⟩ | same
  · exact absurd load (hi key)
  · rw [empty]; rfl
  · rw [same, hv]

/-- A second LOADKEY of the same key changes nothing but the response channel. -/
theorem exec_loadkey_again {s t : State} {slot : SlotNo} {key : Key} (h : exec (.loadkey slot key) s = .next t)
    (hp : t.pending = s.pending ++ [⟨.ok, 0⟩]) :
    exec (.loadkey slot key) t = .next { t with pending := t.pending ++ [⟨.ok, 0⟩] } := by
  obtain ⟨r, hr, again⟩ := exec_repeats rfl h
  rwa [response_eq hr hp] at again

/-- The all-zero key makes the key' words the constants and every rotated word 0 (41_key_schedule.md R61). -/
theorem keySchedule_zero_key (n : RIdx) :
    keyWord' 0 n = scheduleConstant n ∧ (keySchedule 0).word .kl1 n = 0 ∧ (keySchedule 0).word .ko1 n = 0 ∧
      (keySchedule 0).word .ko2 n = 0 ∧ (keySchedule 0).word .ko3 n = 0 := by
  simp [keyWord', scheduleWord]

/-- Settles O20: the slot written reads back, the rest is the frame of the write, and a repeat writes the same. -/
theorem loadkeyFollowsItsRule : Obligations.LoadkeyFollowsItsRule := by
  unfold Obligations.LoadkeyFollowsItsRule
  refine ⟨fun s slot key h => ?_, fun s slot key h => exec_missingSlot rfl h,
    fun s c hop h => runCommand_reserved_of_slotOnly (.inl hop) h s, State.raise_slots, fun slot key => ?_,
    keySchedule_zero_key, ?_⟩
  · have load := exec_loadkey h key
    exact ⟨_, load, ⟨_, s.writeSlot_slot_self slot _ h, rfl, fun _ _ => rfl⟩, s.writeSlot_slots_other slot _,
      s.writeSlot_numSlots slot _, rfl, _, exec_loadkey_again load rfl, rfl⟩
  · exact congrArg (Command.mk · key) (commandWord_slot_only 0x1 slot)
  · refine ⟨_, exec_loadkey (by decide) _, rfl, _, State.writeSlot_slot_self _ 0 _ (by decide), rfl, ?_⟩
    decide

/-- Settles O21: the slot written reads back empty, the rest is the frame of the write, and only LOADKEY of a slot
gives it a key again. -/
theorem clearkeyFollowsItsRule : Obligations.ClearkeyFollowsItsRule := by
  unfold Obligations.ClearkeyFollowsItsRule
  refine ⟨fun s slot h => ?_, fun s slot hv => ?_, fun s slot h => exec_missingSlot rfl h,
    fun s c hop h => runCommand_reserved_of_slotOnly (.inr (.inl hop)) h s,
    fun slot => commandWord_slot_only 0x2 slot, fun slot d => ?_, ⟨_, _, _, rfl, rfl, rfl, rfl, rfl⟩⟩
  · exact ⟨_, exec_clearkey h, ⟨_, s.writeSlot_slot_self slot _ h, rfl, SubkeySet.word_zero⟩,
      s.writeSlot_slots_other slot _, s.writeSlot_numSlots slot _, rfl,
      fun empty => by rw [State.respond_slots, State.writeSlot_eq_self empty]⟩
  · exact ⟨fun _ => exec_unkeyedSlot rfl rfl hv, fun _ _ => exec_unkeyedSlot rfl rfl hv,
      fun _ _ => exec_unkeyedSlot rfl rfl hv, fun i t hi ht => exec_keeps_unkeyed hv hi ht⟩
  · exact commandWord_slot_only 0x2 slot ▸ decode_commandWord rfl rfl d

end Sys2Proof.Machine
end

section
/-! The S-box tables and the function FI (42_fi.md R66 to R68). -/

namespace Sys2Proof.Machine

/-- The numbers that `g` takes on a list, as a mask: bit `v` is set if `v` occurs. Counting in a mask reads each table
entry once, where comparing all pairs of entries would be quadratic. -/
def occurring {α : Type} (g : α → Nat) (l : List α) : Nat :=
  l.foldr (fun a mask => 2 ^ g a ||| mask) 0

theorem testBit_occurring {α : Type} (g : α → Nat) (l : List α) (v : Nat) :
    (occurring g l).testBit v = true ↔ ∃ a ∈ l, g a = v := by
  induction l with
  | nil => simp [occurring]
  | cons a l ih =>
    rw [occurring, List.foldr_cons, Nat.testBit_or, ← occurring, Bool.or_eq_true, ih, Nat.testBit_two_pow]
    simp

/-- A table in which every value of its width occurs is a permutation: it has as many entries as there are values. -/
theorem bijective_of_occurring {w : Nat} {f : BitVec w → BitVec w}
    (h : occurring (fun i => (f (BitVec.ofNat w i)).toNat) (List.range (2 ^ w)) = 2 ^ 2 ^ w - 1) :
    Function.Bijective f := by
  refine Function.Surjective.bijective_of_finite fun v => ?_
  have bit : (2 ^ 2 ^ w - 1).testBit v.toNat = true := by simp [Nat.testBit_two_pow_sub_one, v.isLt]
  obtain ⟨i, -, hi⟩ := (testBit_occurring _ _ _).1 (h ▸ bit)
  exact ⟨_, BitVec.eq_of_toNat_eq hi⟩

theorem s7_bijective : Function.Bijective s7 :=
  bijective_of_occurring (by decide +kernel)

theorem s9_bijective : Function.Bijective s9 :=
  bijective_of_occurring (by decide +kernel)

/-- Settles O10: every value occurs in its table. -/
theorem tablesArePermutations : Obligations.TablesArePermutations :=
  ⟨(Function.bijective_iff_existsUnique s7).1 s7_bijective, (Function.bijective_iff_existsUnique s9).1 s9_bijective⟩

/-- The two halves of FI's input joined again are the input. -/
theorem fiSplit_nine_append_seven (x : Word) : (fiSplit x).nine ++ (fiSplit x).seven = x :=
  (BitVec.extractLsb'_append_extractLsb'_eq_extractLsb' rfl).trans BitVec.extractLsb'_eq_self

theorem fiSplit_injective : Function.Injective fiSplit :=
  Function.LeftInverse.injective (g := fun h : FiHalves => h.nine ++ h.seven) fiSplit_nine_append_seven

/-- A round is undone half by half: the new `nine` and `seven` give the old `seven`, and that gives the old `nine`. -/
theorem fiRound_injective : Function.Injective fiRound := by
  rintro ⟨nine, seven⟩ ⟨nine', seven'⟩ h
  obtain ⟨hnine, hseven⟩ := FiHalves.mk.inj h
  rw [hnine] at hseven
  obtain rfl := s7_bijective.injective ((BitVec.xor_left_inj _).1 hseven)
  obtain rfl := s9_bijective.injective ((BitVec.xor_left_inj _).1 hnine)
  rfl

theorem fiAddKey_injective (k : Word) : Function.Injective (fiAddKey k) := by
  rintro ⟨nine, seven⟩ ⟨nine', seven'⟩ h
  obtain ⟨hnine, hseven⟩ := FiHalves.mk.inj h
  obtain rfl := (BitVec.xor_left_inj _).1 hnine
  obtain rfl := (BitVec.xor_left_inj _).1 hseven
  rfl

theorem fiJoin_injective : Function.Injective fiJoin :=
  Function.LeftInverse.injective (g := fun x => ⟨x.extractLsb' 0 9, x.extractLsb' 9 7⟩) fun _ =>
    congrArg₂ FiHalves.mk BitVec.extractLsb'_append_eq_right BitVec.extractLsb'_append_eq_left

/-- Settles O12: each step of FI is injective, and so is FI, on a finite type. -/
theorem fiIsABijection : Obligations.FiIsABijection := fun k =>
  Function.Injective.bijective_of_finite <|
    fiJoin_injective.comp <| fiRound_injective.comp <| (fiAddKey_injective k).comp <|
      fiRound_injective.comp fiSplit_injective

/-- Settles O11: FI unfolds to the steps written out, and the trace is computed. -/
theorem fiFollowsItsSteps : Obligations.FiFollowsItsSteps := by
  unfold Obligations.FiFollowsItsSteps
  refine ⟨?_, by decide⟩
  rintro x k _ _ _ _ _ _ _ _ rfl rfl rfl rfl rfl rfl rfl rfl
  rfl

end Sys2Proof.Machine
end

section
/-! The FI command (42_fi.md R69). -/

namespace Sys2Proof

open Sys2Proof.Machine

/-- A command word is made of its five fields. -/
theorem Command.fields_append (c : Command) : c.rsvd ++ (c.clr ++ (c.ridx ++ (c.slot ++ c.op))) = c.word := by
  iterate 4 rw [BitVec.extractLsb'_append_extractLsb'_eq_extractLsb' (by rfl)]
  exact BitVec.extractLsb'_eq_self

/-- Only the opcode 0x6 makes an FI. -/
theorem op_of_instrOf_eq_fi {op : BitVec 4} {slot : SlotNo} {ridx : RIdx} {clr : Bool} {d : BitVec 128} {x k : Word}
    (h : instrOf op slot ridx clr d = .fi x k) : op = 0x6 := by
  unfold instrOf at h
  split_ifs at h with _ _ _ _ _ hop
  exact hop

/-- Every field of an FI but its opcode must be 0 (30_encoding.md R53). -/
theorem Command.reservedSet_of_fi {c : Command} (hop : c.op = 0x6)
    (h : c.slot ≠ 0 ∨ c.ridx ≠ 0 ∨ c.clr ≠ 0 ∨ c.rsvd ≠ 0) : c.ReservedSet := by
  rcases h with slot | ridx | clr | rsvd
  · exact .inr (.inr (.inr (.inl ⟨hop, .inl slot⟩)))
  · exact .inr (.inr (.inr (.inl ⟨hop, .inr (.inl ridx)⟩)))
  · exact .inr (.inr (.inr (.inl ⟨hop, .inr (.inr clr)⟩)))
  · exact .inl rsvd

/-- Only the command word 0x00000006 decodes to an FI. -/
theorem word_of_decode_fi {c : Command} {x k : Word} (h : decode c = .ok (.fi x k)) : c.word = 0x00000006 := by
  rw [decode_eq_checks] at h
  split_ifs at h with illegal reserved
  have op : c.op = 0x6 := op_of_instrOf_eq_fi (Except.ok.inj h)
  obtain ⟨slot, ridx, clr, rsvd⟩ : c.slot = 0 ∧ c.ridx = 0 ∧ c.clr = 0 ∧ c.rsvd = 0 := by
    simpa only [not_or, not_not] using mt (Command.reservedSet_of_fi op) reserved
  rw [← c.fields_append, rsvd, clr, ridx, slot, op]
  rfl

end Sys2Proof

namespace Sys2Proof.Machine

/-- FI answers OK with its result in the low bits of the data, and changes nothing else. -/
theorem exec_fi (s : State) (x k : Word) :
    exec (.fi x k) s = .next (s.respond .ok (0#48 ++ fi x k)) :=
  congrArg (fun d => Host.Outcome.next (s.respond .ok d)) (BitVec.setWidth_eq_append (by decide))

/-- The word 0x00000006 decodes to FI on the low two words of the data. -/
theorem decode_fi (d : BitVec 128) :
    decode ⟨0x00000006, d⟩ = .ok (.fi (d.extractLsb' 0 16) (d.extractLsb' 16 16)) :=
  decode_commandWord (op := 0x6) (slot := 0) (ridx := 0) (clr := false) rfl rfl d

theorem runCommand_of_decode {c : Command} {i : Instr} (h : decode c = .ok i) (s : State) :
    runCommand c s = exec i s := by
  simp [runCommand, h]

/-- A subkey 0 leaves the halves alone. -/
@[simp] theorem fiAddKey_zero (h : FiHalves) : fiAddKey 0 h = h := by
  simp [fiAddKey]

/-- Settles O25: FI's word is its opcode with every other field 0, and its answer is the function's value. -/
theorem fiCommandFollowsItsRule : Obligations.FiCommandFollowsItsRule := by
  unfold Obligations.FiCommandFollowsItsRule
  refine ⟨exec_fi, decode_fi, fun c x k => word_of_decode_fi, fun s c hop h => ?_, fun x => ?_, by decide,
    fun s => ?_⟩
  · have legal : ¬c.IllegalOp := by simp [hop]
    exact runCommand_reserved legal (Command.reservedSet_of_fi hop h) s
  · rw [fi, fiAddKey_zero]
  · have value : 0#48 ++ fi 0x1234 0xABCD = 0x000000000000840F#64 := by decide
    exact (runCommand_of_decode (decode_fi _) s).trans ((exec_fi s _ _).trans (value ▸ rfl))

end Sys2Proof.Machine
end

section
/-! The functions FO and FL (43_fo_fl.md R70 to R73). -/

namespace Sys2Proof.Machine

/-- Joined fields are equal exactly if they are equal field by field. -/
theorem append_inj_iff {v w : Nat} {a a' : BitVec v} {b b' : BitVec w} : a ++ b = a' ++ b' ↔ a = a' ∧ b = b' := by
  refine ⟨fun h => ⟨?_, ?_⟩, fun ⟨ha, hb⟩ => ha ▸ hb ▸ rfl⟩
  · simpa only [BitVec.extractLsb'_append_eq_left] using congrArg (·.extractLsb' w v) h
  · simpa only [BitVec.extractLsb'_append_eq_right] using congrArg (·.extractLsb' 0 w) h

@[simp] theorem highWord_append (l r : Word) : highWord (l ++ r) = l :=
  BitVec.extractLsb'_append_eq_left

@[simp] theorem lowWord_append (l r : Word) : lowWord (l ++ r) = r :=
  BitVec.extractLsb'_append_eq_right

@[simp] theorem highWord_append_lowWord (x : Half) : highWord x ++ lowWord x = x :=
  (BitVec.extractLsb'_append_extractLsb'_eq_extractLsb' rfl).trans BitVec.extractLsb'_eq_self

/-- A half is determined by its two words. -/
theorem half_eq_of_words {x y : Half} (high : highWord x = highWord y) (low : lowWord x = lowWord y) : x = y := by
  rw [← highWord_append_lowWord x, high, low, highWord_append_lowWord]

/-- A step of FO is undone beside a known other half, since FI is (43_fo_fl.md R71). -/
theorem foStep_cancel {ko ki a a' b b' : Word} (h : foStep ko ki a b = foStep ko ki a' b') (hb : b = b') : a = a' := by
  subst hb
  have hfi : fi (a ^^^ ko) ki = fi (a' ^^^ ko) ki := (BitVec.xor_left_inj b).1 h
  exact (BitVec.xor_left_inj ko).1 ((fiIsABijection ki).injective hfi)

/-- FO's three steps are undone last to first: each gives back the half it replaced. -/
theorem fo_injective (sk : SubkeySet) (n : RIdx) : Function.Injective (fo sk n) := by
  intro x y h
  obtain ⟨hr, hl⟩ := append_inj_iff.1 h
  have firstStep := foStep_cancel hl hr
  have low := foStep_cancel hr firstStep
  have high := foStep_cancel firstStep low
  exact half_eq_of_words high low

/-- Settles O14: FO is injective on a finite type. -/
theorem foIsABijection : Obligations.FoIsABijection := fun sk n =>
  (fo_injective sk n).bijective_of_finite

/-- An XOR with a mask made from a known value is undone. -/
theorem xor_mask_cancel {α : Type} {w : Nat} {f : α → BitVec w} {a a' : BitVec w} {b b' : α}
    (h : a ^^^ f b = a' ^^^ f b') (hb : b = b') : a = a' :=
  (BitVec.xor_left_inj (f b')).1 (hb ▸ h)

/-- FL's two steps are undone last to first: `l` by the final `r`, then `r` by the old `l`. -/
theorem fl_injective (sk : SubkeySet) (n : RIdx) : Function.Injective (fl sk n) := by
  intro x y h
  obtain ⟨hl, hr⟩ := append_inj_iff.1 h
  have high := xor_mask_cancel (f := fun r => rol16 (r ||| sk.word .kl2 n) 1) hl hr
  have low := xor_mask_cancel (f := fun l => rol16 (l &&& sk.word .kl1 n) 1) hr high
  exact half_eq_of_words high low

/-- Settles O16: FL is injective on a finite type. -/
theorem flIsABijection : Obligations.FlIsABijection := fun sk n =>
  (fl_injective sk n).bijective_of_finite

/-- Settles O13: FO unfolds to the steps written out, on the two words its input was joined from. -/
theorem foFollowsItsSteps : Obligations.FoFollowsItsSteps := by
  unfold Obligations.FoFollowsItsSteps
  rintro sk n _ l r rfl _ _ _ rfl rfl rfl
  simp only [fo, foStep, highWord_append, lowWord_append]

/-- Settles O15: FL unfolds to the steps written out, on the two words its input was joined from. -/
theorem flFollowsItsSteps : Obligations.FlFollowsItsSteps := by
  unfold Obligations.FlFollowsItsSteps
  rintro sk n _ l r rfl _ _ _ _ rfl rfl rfl rfl
  simp only [fl, highWord_append, lowWord_append]

end Sys2Proof.Machine
end

section
/-! The FO and FL commands (43_fo_fl.md R74, R75). -/

namespace Sys2Proof.Machine

/-- FO and FL use SLOT and RIDX: CLR or RSVD set raises E_RESERVED. -/
theorem runCommand_reserved_of_slotAndIndex {c : Command} (hop : c.op = 0x4 ∨ c.op = 0x5)
    (h : c.clr ≠ 0 ∨ c.rsvd ≠ 0) (s : State) : runCommand c s = .next (s.raise .eReserved) := by
  have legal : ¬c.IllegalOp := by rcases hop with hop | hop <;> simp [hop]
  refine runCommand_reserved legal ?_ s
  rcases h with clr | rsvd
  · exact .inr (.inr (.inl ⟨hop, clr⟩))
  · exact .inl rsvd

/-- A 32-bit result on the 64-bit data port stands below 32 zero bits. -/
theorem respond_half (s : State) (y : Half) :
    s.respond .ok (y.setWidth 64) = { s with pending := s.pending ++ [⟨.ok, 0#32 ++ y⟩] } :=
  congrArg (s.respond .ok) (BitVec.setWidth_eq_append (by decide))

/-- FL of 0: the AND gives 0 and leaves `r = 0`, so the OR gives KL2 (43_fo_fl.md R75). -/
theorem fl_zero (sk : SubkeySet) (n : RIdx) : fl sk n 0 = rol16 (sk.word .kl2 n) 1 ++ 0#16 := by
  have a : 0#16 = 0#16 &&& sk.word .kl1 n := BitVec.zero_and.symm
  have r : 0#16 = 0#16 ^^^ rol16 0#16 1 := by simp
  have b : sk.word .kl2 n = 0#16 ||| sk.word .kl2 n := BitVec.zero_or.symm
  have l : rol16 (sk.word .kl2 n) 1 = 0#16 ^^^ rol16 (sk.word .kl2 n) 1 := BitVec.zero_xor.symm
  exact flFollowsItsSteps sk n 0 0 0 rfl _ _ _ _ a r b l

/-- Settles O23: the word is that of its fields, each failed check raises its error, and the answer is the function's
value. -/
theorem foCommandFollowsItsRule : Obligations.FoCommandFollowsItsRule := by
  unfold Obligations.FoCommandFollowsItsRule
  refine ⟨fun s slot sl n x h hv => ?_, fun s slot n x h => exec_missingSlot rfl h,
    fun s slot sl n x h hv => exec_unkeyedSlot rfl rfl (by simp [h, hv]),
    fun s c hop h => runCommand_reserved_of_slotAndIndex (.inl hop) h s,
    fun slot n _ => commandWord_eq_or_shifts 0x4 slot n,
    fun slot n d => decode_or_shifts (op := 0x4) rfl rfl d, by decide, ⟨_, _, rfl, rfl, by decide⟩⟩
  rw [exec_fo_keyed h hv, respond_half]

/-- Settles O24: as for FO, and FL's corner inputs. -/
theorem flCommandFollowsItsRule : Obligations.FlCommandFollowsItsRule := by
  unfold Obligations.FlCommandFollowsItsRule
  refine ⟨fun s slot sl n x h hv => ?_, fun s slot n x h => exec_missingSlot rfl h,
    fun s slot sl n x h hv => exec_unkeyedSlot rfl rfl (by simp [h, hv]),
    fun s c hop h => runCommand_reserved_of_slotAndIndex (.inr hop) h s,
    fun slot n _ => commandWord_eq_or_shifts 0x5 slot n,
    fun slot n d => decode_or_shifts (op := 0x5) rfl rfl d, fl_zero, by decide, by decide, by decide,
    ⟨_, _, rfl, rfl, by decide⟩⟩
  rw [exec_fl_keyed h hv, respond_half]

end Sys2Proof.Machine
end

section
/-! The function KASUMI (44_kasumi.md R76 to R80). -/

namespace Sys2Proof.Machine

@[simp] theorem splitBlock_append (left right : Half) : splitBlock (left ++ right) = ⟨left, right⟩ :=
  congrArg₂ BlockHalves.mk BitVec.extractLsb'_append_eq_left BitVec.extractLsb'_append_eq_right

/-- A round with an even index replaces the right half (44_kasumi.md R77). -/
theorem kasumiRound_even (n : RIdx) (hn : n.getLsbD 0 = false) (sk : SubkeySet) (l r : Half) :
    kasumiRound sk ⟨l, r⟩ n = ⟨l, r ^^^ fo sk n (fl sk n l)⟩ := by
  rw [kasumiRound, hn]
  rfl

/-- A round with an odd index replaces the left half (44_kasumi.md R77). -/
theorem kasumiRound_odd (n : RIdx) (hn : n.getLsbD 0 = true) (sk : SubkeySet) (l r : Half) :
    kasumiRound sk ⟨l, r⟩ n = ⟨l ^^^ fl sk n (fo sk n r), r⟩ := by
  rw [kasumiRound, hn]
  rfl

/-- Settles O17: the fold over the round indices is run round by round, each one replacing one half by the next value
of the trace. -/
theorem kasumiRunsTheEightRounds : Obligations.KasumiRunsTheEightRounds := by
  unfold Obligations.KasumiRunsTheEightRounds
  intro sk left right r0 l1 r2 l3 r4 l5 r6 l7 hr0 hl1 hr2 hl3 hr4 hl5 hr6 hl7
  rw [kasumi, splitBlock_append, roundIndices]
  simp only [List.foldl_cons, List.foldl_nil]
  rw [kasumiRound_even 0 rfl, ← hr0, kasumiRound_odd 1 rfl, ← hl1, kasumiRound_even 2 rfl, ← hr2,
    kasumiRound_odd 3 rfl, ← hl3, kasumiRound_even 4 rfl, ← hr4, kasumiRound_odd 5 rfl, ← hl5,
    kasumiRound_even 6 rfl, ← hr6, kasumiRound_odd 7 rfl, ← hl7, joinBlock]

end Sys2Proof.Machine
end

section
/-! The KASUMI command (44_kasumi.md R81, R83). -/

namespace Sys2Proof.Machine

/-- KASUMI on a slot that holds a key answers OK with the permuted block. -/
theorem exec_kasumi_keyed {s : State} {slot : SlotNo} {sl : Slot} (h : s.slot slot = some sl) (hv : sl.kv = true)
    (block : Block) : exec (.kasumi slot block) s = .next (s.respond .ok (kasumi sl.sk block)) :=
  withKey_keyed h hv fun sk => .next (s.respond .ok (kasumi sk block))

/-- KASUMI right after a LOADKEY of its slot uses the loaded key's subkeys. -/
theorem exec_kasumi_after_loadkey {s : State} {slot : SlotNo} (h : slot.toNat < s.numSlots) (key : Key)
    (block : Block) : ∃ t, exec (.loadkey slot key) s = .next t ∧ t.pending = s.pending ++ [⟨.ok, 0⟩] ∧
      exec (.kasumi slot block) t = .next (t.respond .ok (kasumi (keySchedule key) block)) :=
  have loaded := s.writeSlot_slot_self slot ⟨true, keySchedule key⟩ h
  ⟨_, exec_loadkey h key, rfl, exec_kasumi_keyed (s := (s.writeSlot slot _).respond .ok 0) loaded rfl block⟩

/-- KASUMI repeated on a slot that holds a key answers the same data twice. -/
theorem exec_kasumi_twice {s : State} {slot : SlotNo} {sl : Slot} (h : s.slot slot = some sl) (hv : sl.kv = true)
    (block : Block) : ∃ (t u : State) (d : BitVec 64), exec (.kasumi slot block) s = .next t ∧
      exec (.kasumi slot block) t = .next u ∧ u.pending = s.pending ++ [⟨.ok, d⟩, ⟨.ok, d⟩] :=
  ⟨_, _, kasumi sl.sk block, exec_kasumi_keyed h hv block,
    exec_kasumi_keyed (s := s.respond .ok _) h hv block, by simp⟩

/-- The 3GPP known answer (95_test_vectors.md). -/
theorem kasumi_knownAnswer :
    kasumi (keySchedule 0x2BD6459F82C5B300952C49104881FF48) 0xEA024714AD5C4D84 = 0xDF1F9B251C0BF45F := by
  decide +kernel

/-- Settles O19: equal words make equal subkey sets, and LOADKEY leaves the key's subkey set in the slot, so both
commands answer with KASUMI of one set. -/
theorem kasumiDependsOnBlockAndSubkeysOnly : Obligations.KasumiDependsOnBlockAndSubkeysOnly := by
  unfold Obligations.KasumiDependsOnBlockAndSubkeysOnly
  refine ⟨fun s s' slot slot' sl sl' block h hv h' hv' words => ?_, fun s s' slot slot' key block h h' => ?_⟩
  · have sets : sl.sk = sl'.sk := SubkeySet.ext_word words
    exact ⟨kasumi sl.sk block, exec_kasumi_keyed h hv block, sets ▸ exec_kasumi_keyed h' hv' block⟩
  · obtain ⟨t, load, -, run⟩ := exec_kasumi_after_loadkey h key block
    obtain ⟨t', load', -, run'⟩ := exec_kasumi_after_loadkey h' key block
    exact ⟨t, t', _, load, run, load', run'⟩

/-- Settles O22: each failed check raises its error, the word is that of its fields, and the answer is the function's
value, also when repeated or right after a LOADKEY. -/
theorem kasumiCommandFollowsItsRule : Obligations.KasumiCommandFollowsItsRule := by
  unfold Obligations.KasumiCommandFollowsItsRule
  refine ⟨fun s slot sl block h hv => exec_kasumi_keyed h hv block, fun s slot block h => exec_missingSlot rfl h,
    fun s slot sl block h hv => exec_unkeyedSlot rfl rfl (by simp [h, hv]),
    fun s c hop h => runCommand_reserved_of_slotOnly (.inr (.inr hop)) h s,
    fun slot block => commandWord_slot_only 0x3 slot, fun slot d => ?_,
    fun s slot sl block h hv => exec_kasumi_twice h hv block, fun s slot key block h => ?_, ?_⟩
  · exact commandWord_slot_only 0x3 slot ▸ decode_commandWord rfl rfl d
  · obtain ⟨t, load, -, run⟩ := exec_kasumi_after_loadkey h key block
    exact ⟨t, load, run⟩
  · obtain ⟨t, load, pending, run⟩ := exec_kasumi_after_loadkey (s := State.reset) (slot := 0) (by decide)
      0x2BD6459F82C5B300952C49104881FF48 0xEA024714AD5C4D84
    refine ⟨t, _, load, run, ?_⟩
    rw [kasumi_knownAnswer, State.respond_pending, pending]
    rfl

end Sys2Proof.Machine
end

section
/-! The STATUS command (45_status.md R84). -/

namespace Sys2Proof

open Sys2Proof.Machine

/-- Only the opcode 0x7, among the legal ones, makes a STATUS, and its CLR field is the flag. -/
theorem instrOf_eq_status {c : Command} {clr clr' : Bool} (legal : ¬c.IllegalOp)
    (h : instrOf c.op c.slot c.ridx clr' c.data = .status clr) : c.op = 0x7 ∧ clr' = clr := by
  rcases Command.op_of_legal legal with hop | hop | hop | hop | hop | hop | hop <;> simp_all [instrOf]

/-- Every field of a STATUS but its opcode and CLR must be 0 (30_encoding.md R53). -/
theorem Command.reservedSet_of_status {c : Command} (hop : c.op = 0x7) (h : c.slot ≠ 0 ∨ c.ridx ≠ 0 ∨ c.rsvd ≠ 0) :
    c.ReservedSet := by
  rcases h with slot | ridx | rsvd
  · exact .inr (.inr (.inr (.inr ⟨hop, .inl slot⟩)))
  · exact .inr (.inr (.inr (.inr ⟨hop, .inr ridx⟩)))
  · exact .inl rsvd

/-- The command word of a STATUS: its opcode and CLR. -/
theorem commandWord_status (clr : Bool) : commandWord 0x7 0 0 clr = if clr then 0x00000807 else 0x00000007 := by
  cases clr <;> rfl

/-- Only the word of the opcode 0x7 with that CLR decodes to a STATUS. -/
theorem word_of_decode_status {c : Command} {clr : Bool} (h : decode c = .ok (.status clr)) :
    c.word = commandWord 0x7 0 0 clr := by
  rw [decode_eq_checks] at h
  split_ifs at h with illegal reserved
  obtain ⟨op, hclr⟩ := instrOf_eq_status illegal (Except.ok.inj h)
  obtain ⟨slot, ridx, rsvd⟩ : c.slot = 0 ∧ c.ridx = 0 ∧ c.rsvd = 0 := by
    simpa only [not_or, not_not] using mt (Command.reservedSet_of_status op) reserved
  have clrBit : c.clr = BitVec.ofBool clr := by
    have all : ∀ b : BitVec 1, b = BitVec.ofBool (decide (b = 1)) := by decide
    exact hclr ▸ all c.clr
  rw [← c.fields_append, rsvd, clrBit, ridx, slot, op]
  rfl

/-- STATUS has two command words, one for each value of CLR, whatever the data. -/
theorem decode_eq_status_iff (c : Command) (clr : Bool) :
    decode c = .ok (.status clr) ↔ c.word = commandWord 0x7 0 0 clr := by
  refine ⟨word_of_decode_status, fun h => ?_⟩
  obtain ⟨w, d⟩ := c
  obtain rfl : w = commandWord 0x7 0 0 clr := h
  exact decode_commandWord rfl rfl d

end Sys2Proof

namespace Sys2Proof.Machine

/-- `KV[i]` for `i < NUM_SLOTS`, and 0 otherwise. -/
theorem State.keyValidBit_eq (s : State) (i : Nat) :
    s.keyValidBit i = if i < s.numSlots then (s.slots[i]?.map Slot.kv).getD false else false := by
  unfold State.keyValidBit
  split
  · next sl h =>
      obtain ⟨below, rfl⟩ := List.getElem?_eq_some_iff.1 h
      simp [State.numSlots, below]
  · next h => simp [h]

/-- The fields of the status word, from high to low bits (45_status.md R84). -/
theorem State.statusWord_fields (s : State) :
    s.statusWord.extractLsb' 32 32 = Config.coreId ∧ s.statusWord.extractLsb' 29 3 = 0#3 ∧
      s.statusWord.extractLsb' 28 1 = BitVec.ofBool s.errSticky ∧ s.statusWord.extractLsb' 24 4 = s.lastErr ∧
      s.statusWord.extractLsb' 21 3 = 0#3 ∧ s.statusWord.extractLsb' 16 5 = BitVec.ofNat 5 s.numSlots ∧
      s.statusWord.extractLsb' 0 16 = s.keyValid := by
  unfold State.statusWord
  simp (disch := decide) only [BitVec.extractLsb'_append_eq_of_add_le, BitVec.extractLsb'_append_eq_left,
    BitVec.extractLsb'_eq_self, and_self]

/-- KEY_VALID stands in the low bits of the status word. -/
theorem State.statusWord_getLsbD (s : State) {i : Nat} (hi : i < 16) : s.statusWord.getLsbD i = s.keyValidBit i := by
  obtain ⟨-, -, -, -, -, -, keyValid⟩ := s.statusWord_fields
  simpa only [BitVec.getLsbD_extractLsb', State.keyValid_getLsbD, hi, decide_true, Bool.true_and, Nat.zero_add] using
    congrArg (·.getLsbD i) keyValid

/-- NSLOTS and KEY_VALID depend only on the key-valid bits of the slots. -/
theorem State.numSlots_and_keyValid_congr {s t : State} (kv : s.slots.map Slot.kv = t.slots.map Slot.kv) :
    s.numSlots = t.numSlots ∧ s.keyValid = t.keyValid := by
  have number : s.numSlots = t.numSlots := by simpa [State.numSlots] using congrArg List.length kv
  refine ⟨number, congrArg BitVec.ofFnLE (funext fun i => ?_)⟩
  rw [s.keyValidBit_eq, t.keyValidBit_eq, ← List.getElem?_map, ← List.getElem?_map, kv, number]

/-- The status word of a core with two slots of which only slot 0 holds a key. -/
theorem State.statusWord_of_slot0_keyed {s : State} (kv : s.slots.map Slot.kv = [true, false]) :
    s.statusWord =
      Config.coreId ++ (0#3 ++ (BitVec.ofBool s.errSticky ++ (s.lastErr ++ (0#3 ++ (2#5 ++ 1#16))))) := by
  obtain ⟨number, bits⟩ :=
    State.numSlots_and_keyValid_congr (t := { State.reset with slots := [⟨true, SubkeySet.zero⟩, Slot.empty] }) kv
  rw [State.statusWord, number, bits]
  rfl

/-- After reset no slot shows a key. -/
theorem State.keyValid_resetWith (n : Nat) : (State.resetWith n).keyValid = 0 := by
  refine BitVec.eq_of_getLsbD_eq fun i _ => ?_
  by_cases below : i < n <;> simp [State.keyValidBit_eq, below, Slot.empty]

/-- The status word after reset: CORE_ID and NSLOTS, every other field 0. -/
theorem State.statusWord_resetWith {n : Nat} (h : n ≤ 16) :
    (State.resetWith n).statusWord = 0x4B41533100000000 ||| (BitVec.ofNat 64 n <<< 16) := by
  have word : (State.resetWith n).statusWord =
      0x4B415331#32 ++ (0#3 ++ (0#1 ++ (0#4 ++ (0#3 ++ (BitVec.ofNat 5 n ++ 0#16))))) := by
    rw [State.statusWord, State.keyValid_resetWith, State.resetWith_numSlots]
    rfl
  rw [word]
  apply BitVec.eq_of_toNat_eq
  simp only [BitVec.toNat_append, BitVec.toNat_or, BitVec.toNat_shiftLeft, BitVec.toNat_ofNat, Nat.shiftLeft_eq]
  simp (disch := omega) [Nat.mod_eq_of_lt]

/-- Settles O26: the fields stand in the status word where R84 puts them, a STATUS is the word of its opcode and CLR, and
the values after reset and in the example are the word's fields joined. -/
theorem statusCommandFollowsItsRule : Obligations.StatusCommandFollowsItsRule := by
  unfold Obligations.StatusCommandFollowsItsRule
  refine ⟨fun s hs => ?_, fun c clr => ?_, fun s c hop h => ?_, fun n _ hn => ?_, rfl, fun s => ⟨_, _, rfl, rfl, rfl⟩,
    fun key block => ⟨_, _, _, _, rfl, rfl, rfl, rfl, ?_⟩⟩
  · obtain ⟨coreId, zeros, sticky, lastErr, zeros', nslots, -⟩ := s.statusWord_fields
    refine ⟨s.statusWord, rfl, rfl, coreId, zeros, sticky, lastErr, zeros', ?_, fun i hi => ?_⟩
    · obtain ⟨-, max⟩ := hs
      have small : s.numSlots < 2 ^ 5 := Nat.lt_of_le_of_lt max (by decide)
      rw [nslots, BitVec.toNat_ofNat, Nat.mod_eq_of_lt small]
    · rw [s.statusWord_getLsbD hi, s.keyValidBit_eq]
  · rw [decode_eq_status_iff, commandWord_status]
  · have legal : ¬c.IllegalOp := by simp [hop]
    exact runCommand_reserved legal (Command.reservedSet_of_status hop h) s
  · exact congrArg (fun w => Host.Outcome.next (State.respond _ .ok w)) (State.statusWord_resetWith hn)
  · change [Response.mk .ok 0, ⟨.eNoKey, 0⟩, ⟨.ok, State.statusWord _⟩, ⟨.ok, State.statusWord _⟩] = _
    rw [State.statusWord_of_slot0_keyed (by rfl), State.statusWord_of_slot0_keyed (by rfl)]
    simp only [State.respond_errSticky, State.respond_lastErr, State.raise_errSticky, State.raise_lastErr,
      State.clearLog_errSticky, State.clearLog_lastErr]
    decide

end Sys2Proof.Machine
end

section
/-! The operation `raise` (60_exceptions.md R87). -/

namespace Sys2Proof.Machine

/-- Settles O27: `raise` is the error's log entry followed by its response, and the codes are the rows of their table. -/
theorem raiseWritesTheLogAndResponds : Obligations.RaiseWritesTheLogAndResponds := by
  unfold Obligations.RaiseWritesTheLogAndResponds
  refine ⟨fun s e => ?_, rfl, rfl, rfl, rfl, rfl⟩
  rw [State.raise, State.logError, State.respond]

end Sys2Proof.Machine
end

section
/-! The decoder and the encoder are inverse to each other (30_encoding.md R47, R48, R53). -/

namespace Sys2Proof

open Sys2Proof.Machine

/-- The input of FO and FL is read back from the data port (20_memory.md R36). -/
theorem halfOperand_setWidth (x : Half) : halfOperand (x.setWidth 128) = x :=
  extractLsb'_setWidth_low x (by decide)

/-- The block of KASUMI is read back from the data port (20_memory.md R35). -/
theorem blockOperand_setWidth (block : Block) : blockOperand (block.setWidth 128) = block :=
  extractLsb'_setWidth_low block (by decide)

/-- FI's input and subkey, put side by side on the data port, are read back from there (20_memory.md R36). -/
theorem fiInput_setWidth (x k : Word) : fiInput ((k ++ x).setWidth 128) = x := by
  rw [fiInput_eq_lowWord, halfOperand_setWidth, lowWord_append]

theorem fiSubkey_setWidth (x k : Word) : fiSubkey ((k ++ x).setWidth 128) = k := by
  rw [fiSubkey_eq_highWord, halfOperand_setWidth, highWord_append]

/-- Settles O1: each instruction's word decodes to the instruction of its fields, and its operands are read back from
where the encoder put them. -/
theorem decodeOfEncodeIsTheInstruction : Obligations.DecodeOfEncodeIsTheInstruction := by
  unfold Obligations.DecodeOfEncodeIsTheInstruction
  intro i
  cases i with
  | loadkey slot key => exact decode_commandWord rfl rfl key
  | clearkey slot => exact decode_commandWord rfl rfl 0
  | kasumi slot block =>
    exact (decode_commandWord rfl rfl _).trans
      (congrArg (fun b => Except.ok (Instr.kasumi slot b)) (blockOperand_setWidth block))
  | fo slot ridx x =>
    exact (decode_commandWord rfl rfl _).trans
      (congrArg (fun y => Except.ok (Instr.fo slot ridx y)) (halfOperand_setWidth x))
  | fl slot ridx x =>
    exact (decode_commandWord rfl rfl _).trans
      (congrArg (fun y => Except.ok (Instr.fl slot ridx y)) (halfOperand_setWidth x))
  | fi x k =>
    exact (decode_commandWord rfl rfl _).trans
      (congrArg₂ (fun y l => Except.ok (Instr.fi y l)) (fiInput_setWidth x k) (fiSubkey_setWidth x k))
  | status clr => exact decode_commandWord rfl rfl 0

/-- Everything an accepted command tells: its opcode is legal, the bits it does not use are 0, and it is the instruction
of its fields. -/
theorem decode_eq_ok_iff (c : Command) (i : Instr) :
    decode c = .ok i ↔ legalOp (opField c.word) = true ∧ rsvdField c.word = 0 ∧
      unusedFieldsZero (opField c.word) (slotField c.word) (ridxField c.word) (clrField c.word) = true ∧
      instrOf (opField c.word) (slotField c.word) (ridxField c.word) (clrField c.word) c.data = i := by
  unfold decode
  split_ifs with hop hrsvd hzero
  · simp [hop]
  · have hrsvd : ¬rsvdField c.word = 0#20 := hrsvd
    simp [hrsvd]
  · simp [hzero]
  · simp_all

/-- A command word without reserved bits is the word of its fields. -/
theorem commandWord_fields (c : Command) (hrsvd : rsvdField c.word = 0) :
    commandWord (opField c.word) (slotField c.word) (ridxField c.word) (clrField c.word) = c.word := by
  have clr : BitVec.ofBool (clrField c.word) = c.clr := by
    have all : ∀ b : BitVec 1, BitVec.ofBool (decide (b = 1)) = b := by decide
    rw [clrField_eq_decide, all]
  rw [commandWord, clr]
  exact (congrArg (· ++ _) hrsvd.symm).trans c.fields_append

/-- The instruction of a legal opcode whose unused fields are 0 encodes to the word of these fields. -/
theorem encode_instrOf_word {op : BitVec 4} {slot : SlotNo} {ridx : RIdx} {clr : Bool} (hop : legalOp op = true)
    (hz : unusedFieldsZero op slot ridx clr = true) (d : BitVec 128) :
    (encode (instrOf op slot ridx clr d)).word = commandWord op slot ridx clr := by
  have all : ∀ op : BitVec 4, legalOp op = true →
      op = 0x1 ∨ op = 0x2 ∨ op = 0x3 ∨ op = 0x4 ∨ op = 0x5 ∨ op = 0x6 ∨ op = 0x7 := by decide
  rcases all op hop with rfl | rfl | rfl | rfl | rfl | rfl | rfl <;> simp_all [unusedFieldsZero, instrOf, encode]

/-- Settles O3: the word of an accepted command is that of its fields, and so is the word its instruction encodes to. -/
theorem decodedInstructionKeepsTheCommandWord : Obligations.DecodedInstructionKeepsTheCommandWord := by
  unfold Obligations.DecodedInstructionKeepsTheCommandWord
  intro c i h
  obtain ⟨hop, hrsvd, hzero, rfl⟩ := (decode_eq_ok_iff c i).1 h
  exact (encode_instrOf_word hop hzero c.data).trans (commandWord_fields c hrsvd)

/-- An instruction is encoded as a word of its row. -/
theorem encode_matches_tableRow (i : Instr) : (encode i).word &&& (tableRow i).1 = (tableRow i).2 := by
  cases i with
  | loadkey slot key => exact Laws.EncodesTableRow.loadkey slot key
  | clearkey slot => exact Laws.EncodesTableRow.clearkey slot
  | kasumi slot block => exact Laws.EncodesTableRow.kasumi slot block
  | fo slot ridx x => exact Laws.EncodesTableRow.fo slot ridx x
  | fl slot ridx x => exact Laws.EncodesTableRow.fl slot ridx x
  | fi x k => exact Laws.EncodesTableRow.fi x k
  | status clr => exact Laws.EncodesTableRow.status clr

/-- A field that a row fixes has the row's value. -/
theorem field_of_tableRow {w mask bits : BitVec 32} (h : w &&& mask = bits) (start len : Nat)
    (fixed : mask.extractLsb' start len = BitVec.allOnes len) :
    w.extractLsb' start len = bits.extractLsb' start len := by
  rw [← h, BitVec.extractLsb'_and, fixed, BitVec.and_allOnes]

/-- A command word with a legal opcode and zeros where the opcode has no operand decodes to the instruction of its
fields. -/
theorem decode_of_fields {c : Command} {op : BitVec 4} (hop : c.op = op) (hrsvd : c.rsvd = 0)
    (legal : legalOp op = true) (hz : unusedFieldsZero op c.slot c.ridx (decide (c.clr = 1)) = true) :
    decode c = .ok (instrOf op c.slot c.ridx (decide (c.clr = 1)) c.data) := by
  subst hop
  rw [← clrField_eq_decide] at hz ⊢
  exact (decode_eq_ok_iff c _).2 ⟨legal, hrsvd, hz, rfl⟩

/-- A word of a row decodes to an instruction of that row: the row fixes the opcode and every field that must be 0. -/
theorem decode_of_tableRow {c : Command} {j : Instr} (h : c.word &&& (tableRow j).1 = (tableRow j).2) :
    ∃ i, decode c = .ok i ∧ tableRow i = tableRow j := by
  have zeroClr : ∀ {clr : BitVec 1}, clr = 0 → decide (clr = 1) = false := by decide
  cases j with
  | loadkey | clearkey | kasumi =>
    dsimp only [tableRow] at h
    have op := field_of_tableRow h 0 4 (by decide)
    have ridx : c.ridx = 0 := field_of_tableRow h 8 3 (by decide)
    have clr : c.clr = 0 := field_of_tableRow h 11 1 (by decide)
    have rsvd := field_of_tableRow h 12 20 (by decide)
    exact ⟨_, decode_of_fields op rsvd rfl (by rw [ridx, zeroClr clr]; rfl), rfl⟩
  | fo | fl =>
    dsimp only [tableRow] at h
    have op := field_of_tableRow h 0 4 (by decide)
    have clr : c.clr = 0 := field_of_tableRow h 11 1 (by decide)
    have rsvd := field_of_tableRow h 12 20 (by decide)
    exact ⟨_, decode_of_fields op rsvd rfl (by rw [zeroClr clr]; rfl), rfl⟩
  | fi =>
    dsimp only [tableRow] at h
    have op := field_of_tableRow h 0 4 (by decide)
    have slot : c.slot = 0 := field_of_tableRow h 4 4 (by decide)
    have ridx : c.ridx = 0 := field_of_tableRow h 8 3 (by decide)
    have clr : c.clr = 0 := field_of_tableRow h 11 1 (by decide)
    have rsvd := field_of_tableRow h 12 20 (by decide)
    exact ⟨_, decode_of_fields op rsvd rfl (by rw [slot, ridx, zeroClr clr]; rfl), rfl⟩
  | status =>
    dsimp only [tableRow] at h
    have op := field_of_tableRow h 0 4 (by decide)
    have slot : c.slot = 0 := field_of_tableRow h 4 4 (by decide)
    have ridx : c.ridx = 0 := field_of_tableRow h 8 3 (by decide)
    have rsvd := field_of_tableRow h 12 20 (by decide)
    exact ⟨_, decode_of_fields op rsvd rfl (by rw [slot, ridx]; rfl), rfl⟩

/-- Settles O2: an accepted word is the one its instruction encodes to, which is of the instruction's row; and a word of a
row has the fields that the decoder asks for. -/
theorem decoderAcceptsExactlyTheTableRows : Obligations.DecoderAcceptsExactlyTheTableRows := by
  unfold Obligations.DecoderAcceptsExactlyTheTableRows
  refine ⟨fun c i h => ?_, fun c j h => decode_of_tableRow h⟩
  rw [← decodedInstructionKeepsTheCommandWord c i h]
  exact encode_matches_tableRow i

/-- Settles O4: each word has the fields of its instruction, or one that the decoder refuses. -/
theorem wordsWrittenOutDecode : Obligations.WordsWrittenOutDecode :=
  ⟨rfl, rfl, rfl, rfl, rfl, rfl, rfl, rfl, rfl, rfl, rfl⟩

end Sys2Proof
end

section
/-! KASUMI is a bijection (44_kasumi.md R82). -/

namespace Sys2Proof.Machine

theorem splitBlock_injective : Function.Injective splitBlock :=
  Function.LeftInverse.injective (g := joinBlock) fun _ =>
    (BitVec.extractLsb'_append_extractLsb'_eq_extractLsb' rfl).trans BitVec.extractLsb'_eq_self

theorem joinBlock_injective : Function.Injective joinBlock :=
  Function.LeftInverse.injective (g := splitBlock) fun h => splitBlock_append h.left h.right

/-- A round replaces one half by its XOR with a function of the other half, which the round keeps. -/
theorem kasumiRound_injective (sk : SubkeySet) (n : RIdx) : Function.Injective fun h => kasumiRound sk h n := by
  rintro ⟨l, r⟩ ⟨l', r'⟩ h
  cases hn : n.getLsbD 0 with
  | true =>
    simp only [kasumiRound_odd n hn, BlockHalves.mk.injEq] at h
    obtain ⟨left, rfl⟩ := h
    rw [xor_mask_cancel (f := fun r => fl sk n (fo sk n r)) left rfl]
  | false =>
    simp only [kasumiRound_even n hn, BlockHalves.mk.injEq] at h
    obtain ⟨rfl, right⟩ := h
    rw [xor_mask_cancel (f := fun l => fo sk n (fl sk n l)) right rfl]

/-- A fold whose every step is injective is injective. -/
theorem foldl_injective {α β : Type} {f : β → α → β} (h : ∀ a, Function.Injective fun b => f b a) (l : List α) :
    Function.Injective fun b => l.foldl f b := by
  induction l with
  | nil => exact Function.injective_id
  | cons a l ih => exact ih.comp (h a)

/-- KASUMI splits the block, runs rounds that each can be undone, and joins the halves. -/
theorem kasumi_injective (sk : SubkeySet) : Function.Injective (kasumi sk) := fun _ _ h =>
  splitBlock_injective <| foldl_injective (kasumiRound_injective sk) roundIndices (joinBlock_injective h)

/-- Settles O18: KASUMI is injective on a finite type. -/
theorem kasumiIsABijection : Obligations.KasumiIsABijection := fun sk =>
  (kasumi_injective sk).bijective_of_finite

end Sys2Proof.Machine
end

section
/-! What each instruction leaves alone, and on what its answer depends (10_state.md R20, R21, 60_exceptions.md R96). -/

namespace Sys2Proof.Machine

/-- Settles O30: of an instruction's answers, only a slot written changes the slots, only a raise and STATUS clr the log,
and none the ports. -/
theorem frameOfCommandsThatWriteNoSlot : Obligations.FrameOfCommandsThatWriteNoSlot := by
  unfold Obligations.FrameOfCommandsThatWriteNoSlot
  intro i s t hi h
  rcases exec_next h with ⟨e, he, rfl⟩ | ⟨-, d, rfl⟩ | ⟨slot, key, rfl, -⟩ | ⟨slot, rfl, -⟩ | ⟨clear, rfl⟩ | ⟨-, rfl⟩
  · exact ⟨rfl, rfl, rfl, rfl, rfl, ⟨e, 0⟩, rfl, fun ok => absurd ok he⟩
  · exact ⟨rfl, rfl, rfl, rfl, rfl, ⟨.ok, d⟩, rfl, fun _ _ => ⟨rfl, rfl⟩⟩
  · cases hi
  · cases hi
  · exact ⟨rfl, rfl, rfl, rfl, rfl, ⟨.ok, s.statusWord⟩, rfl, fun _ noClear => absurd clear noClear⟩
  · exact ⟨rfl, rfl, rfl, rfl, rfl, ⟨.ok, s.statusWord⟩, rfl, fun _ _ => ⟨rfl, rfl⟩⟩

/-- Two states with the same key-valid bit of slot `k`, or both without this slot, answer a command on it in the same
way: E_SLOT, or what the command does with the slot. -/
theorem withSlot_next₂ {k : SlotNo} {s s' t t' : State} {run run' : Slot → Result}
    (hk : (s.slot k).map Slot.kv = (s'.slot k).map Slot.kv)
    (h : withSlot k s run = .next t) (h' : withSlot k s' run' = .next t') :
    (t = s.raise .eSlot ∧ t' = s'.raise .eSlot) ∨
    ∃ sl sl', s.slot k = some sl ∧ s'.slot k = some sl' ∧ sl.kv = sl'.kv ∧ run sl = .next t ∧ run' sl' = .next t' := by
  rcases withSlot_next h with ⟨missing, ht⟩ | ⟨sl, found, ht⟩
  · rw [missing, Option.map_none, eq_comm, Option.map_eq_none_iff] at hk
    rw [withSlot_none hk, Host.Outcome.next.injEq] at h'
    exact .inl ⟨ht, h'.symm⟩
  · rw [found, Option.map_some, eq_comm, Option.map_eq_some_iff] at hk
    obtain ⟨sl', found', kv⟩ := hk
    exact .inr ⟨sl, sl', found, found', kv.symm, ht, withSlot_some found' run' ▸ h'⟩

/-- The same for a command on the subkeys of a slot: both raise the same error, or both do what the command does with the
subkeys. -/
theorem withKey_next₂ {k : SlotNo} {s s' t t' : State} {run run' : SubkeySet → Result}
    (hk : (s.slot k).map Slot.kv = (s'.slot k).map Slot.kv)
    (h : withKey k s run = .next t) (h' : withKey k s' run' = .next t') :
    (∃ e, t = s.raise e ∧ t' = s'.raise e) ∨
    ∃ sl sl', s.slot k = some sl ∧ s'.slot k = some sl' ∧ run sl.sk = .next t ∧ run' sl'.sk = .next t' := by
  rcases withSlot_next₂ hk h h' with error | ⟨sl, sl', found, found', kv, ht, ht'⟩
  · exact .inl ⟨_, error⟩
  · rw [← kv] at ht'
    cases hv : sl.kv with
    | false =>
      rw [hv] at ht ht'
      injection ht with ht
      injection ht' with ht'
      exact .inl ⟨_, ht.symm, ht'.symm⟩
    | true =>
      rw [hv] at ht ht'
      exact .inr ⟨sl, sl', found, found', ht, ht'⟩

/-- `t` and `t'` are what `i`, an instruction on slot `k`, makes of `s` and `s'` in the same way: the same error raised, the
same contents written to the slot, or the same function of its subkeys answered. -/
inductive AnswersAlike (i : Instr) (k : SlotNo) (s s' t t' : State) : Prop where
  | raise (e : Status) (ht : t = s.raise e) (ht' : t' = s'.raise e)
  | write (new : Slot) (hs : k.toNat < s.numSlots) (hs' : k.toNat < s'.numSlots)
    (ht : t = (s.writeSlot k new).respond .ok 0) (ht' : t' = (s'.writeSlot k new).respond .ok 0)
  | compute (hi : i.writesSlot = false) (f : SubkeySet → BitVec 64) (sl sl' : Slot) (found : s.slot k = some sl)
    (found' : s'.slot k = some sl') (ht : t = s.respond .ok (f sl.sk)) (ht' : t' = s'.respond .ok (f sl'.sk))

/-- The key-valid bit of the slot that an instruction names decides in which way it answers. -/
theorem exec_answersAlike {i : Instr} {k : SlotNo} {s s' t t' : State} (hi : i.slotOperand = some k)
    (hk : (s.slot k).map Slot.kv = (s'.slot k).map Slot.kv) (h : exec i s = .next t) (h' : exec i s' = .next t') :
    AnswersAlike i k s s' t t' := by
  have onSlot : ∀ new, (∀ s, exec i s = withSlot k s fun _ => .next ((s.writeSlot k new).respond .ok 0)) →
      AnswersAlike i k s s' t t' := by
    intro new hc
    rcases withSlot_next₂ hk (hc s ▸ h) (hc s' ▸ h') with ⟨ht, ht'⟩ | ⟨sl, sl', found, found', -, ht, ht'⟩
    · exact .raise _ ht ht'
    · injection ht with ht
      injection ht' with ht'
      exact .write new ((s.slot_isSome_iff k).1 ⟨sl, found⟩) ((s'.slot_isSome_iff k).1 ⟨sl', found'⟩) ht.symm ht'.symm
  have onKey : ∀ f : SubkeySet → BitVec 64, i.writesSlot = false →
      (∀ s, exec i s = withKey k s fun sk => .next (s.respond .ok (f sk))) → AnswersAlike i k s s' t t' := by
    intro f hw hc
    rcases withKey_next₂ hk (hc s ▸ h) (hc s' ▸ h') with ⟨e, ht, ht'⟩ | ⟨sl, sl', found, found', ht, ht'⟩
    · exact .raise e ht ht'
    · injection ht with ht
      injection ht' with ht'
      exact .compute hw f sl sl' found found' ht.symm ht'.symm
  cases i with
  | loadkey _ key => cases hi; exact onSlot ⟨true, keySchedule key⟩ fun _ => rfl
  | clearkey _ => cases hi; exact onSlot Slot.empty fun _ => rfl
  | kasumi _ block => cases hi; exact onKey (fun sk => kasumi sk block) rfl fun _ => rfl
  | fo _ n x => cases hi; exact onKey (fun sk => (fo sk n x).setWidth 64) rfl fun _ => rfl
  | fl _ n x => cases hi; exact onKey (fun sk => (fl sk n x).setWidth 64) rfl fun _ => rfl
  | fi | status => cases hi

/-- Settles O32: an instruction changes only the slot it names, and what it answers and writes there is fixed by that
slot. -/
theorem slotsAreIndependent : Obligations.SlotsAreIndependent := by
  unfold Obligations.SlotsAreIndependent
  refine ⟨fun i s t k hi h => ?_, fun i s s' t t' k hi hk h h' => ?_⟩
  · rcases exec_slot_next h k with ⟨key, rfl, -⟩ | ⟨rfl, -⟩ | same
    · exact absurd rfl hi
    · exact absurd rfl hi
    · exact same
  · rcases exec_answersAlike hi (congrArg _ hk) h h' with ⟨e, rfl, rfl⟩ | ⟨new, hs, hs', rfl, rfl⟩ |
      ⟨-, f, sl, sl', found, found', rfl, rfl⟩
    · exact ⟨hk, ⟨e, 0⟩, rfl, rfl⟩
    · exact ⟨(s.writeSlot_slot_self k new hs).trans (s'.writeSlot_slot_self k new hs').symm, ⟨.ok, 0⟩, rfl, rfl⟩
    · obtain rfl : sl = sl' := Option.some.inj (found.symm.trans (hk.trans found'))
      exact ⟨hk, ⟨.ok, f sl.sk⟩, rfl, rfl⟩

theorem State.SameButSubkeys.kv {s s' : State} (h : s.SameButSubkeys s') :
    s.slots.map Slot.kv = s'.slots.map Slot.kv := h.2.symm

theorem State.SameButSubkeys.log {s s' : State} (h : s.SameButSubkeys s') :
    s.lastErr = s'.lastErr ∧ s.errSticky = s'.errSticky :=
  ⟨(congrArg State.lastErr h.1).symm, (congrArg State.errSticky h.1).symm⟩

/-- The status word shows no subkey. -/
theorem State.SameButSubkeys.statusWord {s s' : State} (h : s.SameButSubkeys s') : s.statusWord = s'.statusWord := by
  obtain ⟨lastErr, errSticky⟩ := h.log
  obtain ⟨number, bits⟩ := State.numSlots_and_keyValid_congr h.kv
  simp only [State.statusWord, lastErr, errSticky, number, bits]

theorem State.SameButSubkeys.slot_kv {s s' : State} (h : s.SameButSubkeys s') (k : SlotNo) :
    (s.slot k).map Slot.kv = (s'.slot k).map Slot.kv := by
  simpa only [State.slot, ← List.getElem?_map] using congrArg (·[k.toNat]?) h.kv

/-- Settles O33: on a slot, both states take the same branch, by their key-valid bits; and FI and STATUS read no subkey. -/
theorem subkeysShowOnlyInCipherResults : Obligations.SubkeysShowOnlyInCipherResults := by
  unfold Obligations.SubkeysShowOnlyInCipherResults
  intro i s s' t t' same h h'
  obtain ⟨lastErr, errSticky⟩ := same.log
  have kv := same.kv
  cases hi : i.slotOperand with
  | some k =>
    rcases exec_answersAlike hi (same.slot_kv k) h h' with ⟨e, rfl, rfl⟩ | ⟨new, -, -, rfl, rfl⟩ |
      ⟨cipher, f, sl, sl', -, -, rfl, rfl⟩
    · exact ⟨rfl, rfl, kv, ⟨e, 0⟩, ⟨e, 0⟩, rfl, rfl, rfl, fun _ _ _ => rfl⟩
    · refine ⟨lastErr, errSticky, ?_, ⟨.ok, 0⟩, ⟨.ok, 0⟩, rfl, rfl, rfl, fun _ _ _ => rfl⟩
      simp only [State.respond_slots, State.writeSlot_slots, List.map_set, kv]
    · refine ⟨lastErr, errSticky, kv, ⟨.ok, f sl.sk⟩, ⟨.ok, f sl'.sk⟩, rfl, rfl, rfl, fun noKasumi noFo noFl => ?_⟩
      cases i with
      | loadkey | clearkey => cases cipher
      | kasumi => exact absurd rfl (noKasumi _ _)
      | fo => exact absurd rfl (noFo _ _ _)
      | fl => exact absurd rfl (noFl _ _ _)
      | fi | status => cases hi
  | none =>
    cases i with
    | loadkey | clearkey | kasumi | fo | fl => cases hi
    | fi x k =>
      injection h with h
      injection h' with h'
      subst h h'
      exact ⟨lastErr, errSticky, kv, _, _, rfl, rfl, rfl, fun _ _ _ => rfl⟩
    | status clr =>
      have word : Response.mk .ok s.statusWord = ⟨.ok, s'.statusWord⟩ := congrArg _ same.statusWord
      cases clr <;> injection h with h <;> injection h' with h' <;> subst h h'
      · exact ⟨lastErr, errSticky, kv, _, _, rfl, rfl, rfl, fun _ _ _ => word⟩
      · exact ⟨rfl, rfl, kv, _, _, rfl, rfl, rfl, fun _ _ _ => word⟩

end Sys2Proof.Machine
end

section
/-! What one edge does (10_state.md R30, 70_reset_and_hazards.md R99). -/

namespace Sys2Proof.Machine

theorem State.commandTransfers_iff (s : State) (e : Edge) :
    s.commandTransfers e = true ↔ s.cmdReady = true ∧ e.cmdValid = true :=
  Bool.and_eq_true_iff

/-- The command of the next edge transfers if both sides of the channel are ready. -/
theorem State.nextTransfer_eq {s : State} {e : Edge} {rest : List Edge} (hs : s.edges = e :: rest)
    (hr : e.rstN = true) :
    s.nextTransfer = if s.cmdReady = true ∧ e.cmdValid = true then [e.command] else [] := by
  simp [State.nextTransfer, hs, hr, State.commandTransfers]

/-- A step at whose edge a command transfers runs it after the response channel's part of the edge. -/
theorem step_transfer {s : State} {e : Edge} {rest : List Edge} (hs : s.edges = e :: rest) (hr : e.rstN = true)
    (hc : s.cmdReady = true) (hv : e.cmdValid = true) :
    step s = driveAfter e (runCommand e.command ((s.withEdges rest).responseEdge e)) := by
  have transfers := (s.commandTransfers_iff e).2 ⟨hc, hv⟩
  simp only [step, hs, clockEdge, hr, State.withEdges_commandTransfers, transfers]

/-- Settles O40: the command that transfers is run, and it decodes to the instruction. -/
theorem stepRunsTheDecodedInstruction : Obligations.StepRunsTheDecodedInstruction := by
  unfold Obligations.StepRunsTheDecodedInstruction
  intro s e rest i hs hr hc hv hd
  have run : step s = driveAfter e (exec i ((s.withEdges rest).responseEdge e)) := by
    rw [step_transfer hs hr hc hv, runCommand_of_decode hd]
  exact ⟨run, fun t ht => by rw [run, ht, driveAfter]⟩

/-- Settles O41: the command that transfers is run, and a refused one raises the error of its reason. -/
theorem stepRaisesTheDecodersError : Obligations.StepRaisesTheDecodersError := by
  unfold Obligations.StepRaisesTheDecodersError
  intro s e rest hs hr hc hv
  constructor <;> intro hd <;> rw [step_transfer hs hr hc hv, runCommand_error hd] <;> rfl

/-- Settles O39: the step is a reset, of which every field is known. -/
theorem resetDiscardsCommandsInFlight : Obligations.ResetDiscardsCommandsInFlight := by
  unfold Obligations.ResetDiscardsCommandsInFlight
  exact fun s e rest hs hr => ⟨_, step_reset hs hr, rfl, rfl, rfl, rfl, rfl, rfl, rfl⟩

/-- With no edge to come a step does nothing (60_exceptions.md R98). -/
theorem step_idle {s : State} (hs : s.edges = []) : step s = .next s := by
  simp only [step, hs]

/-- Settles O42: with no command, the step is a run of no commands, and the response channel loses nothing. -/
theorem idleCoreKeepsItsState : Obligations.IdleCoreKeepsItsState := by
  unfold Obligations.IdleCoreKeepsItsState
  refine ⟨fun s => step_idle, fun s e rest hs hr idle => ?_⟩
  have none : s.nextTransfer = [] := by
    rw [State.nextTransfer_eq hs hr, if_neg]
    rintro ⟨ready, valid⟩
    rcases idle with idle | idle
    · simp [idle] at valid
    · simp [idle] at ready
  obtain ⟨t, u, new, ht, run, same, -, hnew, hd, hp, hedges, -, -⟩ := step_edge hs hr
  rw [none] at run hnew
  obtain rfl : s = u := by injection run
  obtain rfl : new = [] := List.length_eq_zero_iff.1 hnew
  refine ⟨t, ht, same.slots, same.lastErr, same.errSticky, hedges, ?_⟩
  rw [hd, hp, List.append_nil, s.responseEdge_responses]

/-- A response that is not taken does not move. -/
theorem State.responseEdge_of_not_ready (s : State) {e : Edge} (h : e.rspReady = false) : s.responseEdge e = s := by
  simp [State.responseEdge, State.responseTransfers, h]

/-- What `rsp_status` and `rsp_data` show is the oldest response in flight, offered. -/
theorem State.rspPort_eq_some_iff (s : State) (r : Response) :
    s.rspPort = some r ↔ s.rspValid = true ∧ s.pending.head? = some r := by
  unfold State.rspPort
  split <;> simp [*]

/-- Settles O43: nothing leaves the channel and what joins it joins at the end. -/
theorem offeredResponseIsHeldStable : Obligations.OfferedResponseIsHeldStable := by
  unfold Obligations.OfferedResponseIsHeldStable
  intro s e rest r hs hr notReady offered
  obtain ⟨-, oldest⟩ := (s.rspPort_eq_some_iff r).1 offered
  obtain ⟨t, -, new, ht, -, -, -, -, -, hp, -⟩ := step_edge hs hr
  have still : t.pending.head? = some r := by
    rw [hp, s.responseEdge_of_not_ready notReady, List.head?_append, oldest, Option.some_or]
  exact ⟨t, ht, still, fun valid => (t.rspPort_eq_some_iff r).2 ⟨valid, still⟩⟩

/-- Settles O44: the response channel moves responses and loses none, and each command that transfers adds one. -/
theorem oneResponsePerCommandInOrder : Obligations.OneResponsePerCommandInOrder := by
  unfold Obligations.OneResponsePerCommandInOrder
  intro s e rest hs hr
  obtain ⟨t, -, new, ht, -, -, -, hnew, hd, hp, hedges, -⟩ := step_edge hs hr
  refine ⟨t, new, ht, hedges, ?_, ?_, ?_⟩
  · rw [hd, hp, ← List.append_assoc, s.responseEdge_responses]
  · rw [hnew, State.nextTransfer_eq hs hr]
    split <;> rfl
  · rw [hd, s.responseEdge_delivered]
    simp only [State.responseTransfers, Bool.and_eq_true]
    split <;> simp

/-- Every step answers a next state and takes one edge off. -/
theorem step_answers (s : State) : ∃ t, step s = .next t ∧ t.edges = s.edges.tail := by
  cases hs : s.edges with
  | nil => exact ⟨s, step_idle hs, hs⟩
  | cons e rest =>
    cases hr : e.rstN with
    | false => exact ⟨_, step_reset hs hr, rfl⟩
    | true =>
      obtain ⟨t, -, -, ht, -, -, -, -, -, -, hedges, -⟩ := step_edge hs hr
      exact ⟨t, ht, hedges⟩

/-- Every run answers a next state and takes one edge off a step. -/
theorem run_answers (n : Nat) (s : State) : ∃ t, s.RunsTo n t ∧ t.edges = s.edges.drop n := by
  induction n generalizing s with
  | zero => exact ⟨s, State.runsTo_zero.2 rfl, rfl⟩
  | succ n ih =>
    obtain ⟨u, hu, hedges⟩ := step_answers s
    obtain ⟨t, ht, hedges'⟩ := ih u
    refine ⟨t, (State.runsTo_succ hu).2 ht, ?_⟩
    rw [hedges', hedges, ← List.drop_one, List.drop_drop, Nat.add_comm]

/-- Settles O45: no run stops, and it takes an edge off at each step. -/
theorem runConsumesEveryEdge : Obligations.RunConsumesEveryEdge := by
  unfold Obligations.RunConsumesEveryEdge
  intro s
  obtain ⟨t, ht, hedges⟩ := run_answers s.edges.length s
  exact ⟨t, ht, hedges.trans List.drop_length⟩

end Sys2Proof.Machine
end

section
/-! What every step keeps: the invariants (10_state.md R20, R22, R23, R31). -/

namespace Sys2Proof.Machine

/-- What an instruction does with the list of slots: nothing, or one slot is loaded or emptied, by the command for it. -/
theorem exec_slots {i : Instr} {s t : State} (h : exec i s = .next t) :
    t.slots = s.slots ∨ ∃ slot new, t.slots = s.slots.set slot.toNat new ∧
      ((∃ key, i = .loadkey slot key ∧ new = ⟨true, keySchedule key⟩) ∨ (i = .clearkey slot ∧ new = Slot.empty)) := by
  rcases exec_next h with ⟨e, -, rfl⟩ | ⟨-, d, rfl⟩ | ⟨slot, key, rfl, -, rfl⟩ | ⟨slot, rfl, -, rfl⟩ | ⟨-, rfl⟩ |
    ⟨-, rfl⟩
  · exact .inl rfl
  · exact .inl rfl
  · exact .inr ⟨slot, _, rfl, .inl ⟨key, rfl, rfl⟩⟩
  · exact .inr ⟨slot, _, rfl, .inr ⟨rfl, rfl⟩⟩
  · exact .inl rfl
  · exact .inl rfl

/-- What a command does with the list of slots, the decoder's errors included. -/
theorem runCommand_slots {c : Command} {s t : State} (h : runCommand c s = .next t) :
    t.slots = s.slots ∨ ∃ slot new, t.slots = s.slots.set slot.toNat new ∧
      ((∃ key, decode c = .ok (.loadkey slot key) ∧ new = ⟨true, keySchedule key⟩) ∨
        (decode c = .ok (.clearkey slot) ∧ new = Slot.empty)) := by
  rcases runCommand_next h with ⟨r, -, rfl⟩ | ⟨i, hd, hi⟩
  · exact .inl rfl
  · simpa [hd] using exec_slots hi

/-- Settles O31: the list of slots changes at a reset or by a command, and a command changes one slot, which it names. -/
theorem slotChangesOnlyByLoadClearOrReset : Obligations.SlotChangesOnlyByLoadClearOrReset := by
  unfold Obligations.SlotChangesOnlyByLoadClearOrReset
  intro s t k h changed
  rcases step_next h with ⟨-, rfl⟩ | ⟨e, rest, hs, ⟨hr, -⟩ | ⟨-, -, rfl⟩ | ⟨-, hc, u, hu, rfl⟩⟩
  · exact absurd rfl changed
  · exact ⟨e, rest, hs, .inl hr⟩
  · simp at changed
  · obtain ⟨ready, valid⟩ := (s.commandTransfers_iff e).1 hc
    rcases runCommand_slots hu with same | ⟨slot, new, written, command⟩
    · simp [same] at changed
    · have named : slot.toNat = k := by
        by_contra other
        simp [written, List.getElem?_set_ne other] at changed
      refine ⟨e, rest, hs, .inr ⟨ready, valid, slot, named, ?_⟩⟩
      exact command.imp (fun ⟨key, hd, _⟩ => ⟨key, hd⟩) And.left

/-- Every part of an edge keeps `P`: the edge taken off the list, the response channel, the outputs, a reset, a command. -/
structure KeptByEveryPart (P : State → Prop) : Prop where
  withEdges : ∀ s rest, P s → P (s.withEdges rest)
  responseEdge : ∀ s e, P s → P (s.responseEdge e)
  driveOutputs : ∀ s e, P s → P (s.driveOutputs e)
  resetEdge : ∀ s e, P s → P (s.resetEdge e)
  command : ∀ c s t, runCommand c s = .next t → P s → P t

/-- What every part of an edge keeps, a step keeps. -/
theorem KeptByEveryPart.step {P : State → Prop} (kept : KeptByEveryPart P) {s t : State} (hs : P s)
    (h : step s = .next t) : P t := by
  rcases step_next h with ⟨-, rfl⟩ | ⟨e, rest, -, ⟨-, rfl⟩ | ⟨-, -, rfl⟩ | ⟨-, -, u, hu, rfl⟩⟩
  · exact hs
  · exact kept.resetEdge _ e (kept.withEdges s rest hs)
  · exact kept.driveOutputs _ e (kept.responseEdge _ e (kept.withEdges s rest hs))
  · exact kept.driveOutputs u e (kept.command _ _ u hu (kept.responseEdge _ e (kept.withEdges s rest hs)))

theorem numSlots_kept (n : Nat) : KeptByEveryPart fun s => s.numSlots = n where
  withEdges _ _ h := h
  responseEdge s e h := (s.responseEdge_numSlots e).trans h
  driveOutputs _ _ h := h
  resetEdge s e h := (s.resetEdge_numSlots e).trans h
  command c s t hc h := by
    rcases runCommand_slots hc with same | ⟨slot, new, written, -⟩
    · exact (congrArg List.length same).trans h
    · exact ((congrArg List.length written).trans List.length_set).trans h

/-- Settles O38: every step answers, and no part of an edge changes the number of slots. -/
theorem stepNeverStops : Obligations.StepNeverStops := by
  unfold Obligations.StepNeverStops
  intro s
  obtain ⟨t, ht, -⟩ := step_answers s
  exact ⟨t, ht, (numSlots_kept s.numSlots).step rfl ht⟩

/-- What holds of an empty slot and of every loaded slot is kept of all slots. -/
theorem slots_kept {Q : Slot → Prop} (empty : Q Slot.empty) (loaded : ∀ key, Q ⟨true, keySchedule key⟩) :
    KeptByEveryPart fun s => ∀ sl ∈ s.slots, Q sl where
  withEdges _ _ h := h
  responseEdge s e h := by simpa using h
  driveOutputs _ _ h := h
  resetEdge s e _ := fun sl hsl => List.eq_of_mem_replicate hsl ▸ empty
  command c s t hc h := by
    rcases runCommand_slots hc with same | ⟨slot, new, written, command⟩
    · rwa [same]
    · intro sl hsl
      rcases List.mem_or_eq_of_mem_set (written ▸ hsl) with old | rfl
      · exact h sl old
      · rcases command with ⟨key, -, rfl⟩ | ⟨-, rfl⟩
        · exact loaded key
        · exact empty

/-- Settles O37: an empty slot has KV = 0, and a loaded slot holds a derived set. -/
theorem stepKeepsKeyedSlotsDerived : Obligations.StepKeepsKeyedSlotsDerived := by
  unfold Obligations.StepKeepsKeyedSlotsDerived
  have kept : KeptByEveryPart State.KeyedSlotsDerived :=
    slots_kept (fun keyed => nomatch keyed) fun key _ => ⟨key, rfl⟩
  exact fun s t hs ht => kept.step hs ht

theorem unkeyedSlotsZero_kept : KeptByEveryPart fun s => s.UnkeyedSlotsZero :=
  slots_kept (fun _ => rfl) fun _ unkeyed => nomatch unkeyed

theorem State.logConsistent_of_clear {s : State} (hl : s.lastErr = 0) (hs : s.errSticky = false) : s.LogConsistent := by
  simp [State.LogConsistent, hl, hs]

/-- The log that an error leaves is consistent: its code is 1 to 4. -/
theorem logConsistent_kept : KeptByEveryPart fun s => s.LogConsistent where
  withEdges _ _ h := h
  responseEdge s e h := by simpa [State.LogConsistent] using h
  driveOutputs _ _ h := h
  resetEdge _ _ _ := State.logConsistent_of_clear rfl rfl
  command c s t hc h := by
    rcases runCommand_errorLog hc with ⟨e, he, rfl⟩ | ⟨-, rfl⟩ | ⟨-, d, -, lastErr, errSticky⟩
    · exact ⟨e.code_le, iff_of_true rfl (mt e.code_eq_zero_iff.1 he)⟩
    · exact State.logConsistent_of_clear rfl rfl
    · rwa [State.LogConsistent, lastErr, errSticky]

/-- A command delivers nothing and adds one response, with data 0 if it is an error (30_encoding.md R50). -/
theorem runCommand_responses {c : Command} {s t : State} (h : runCommand c s = .next t) :
    t.delivered = s.delivered ∧ ∃ r : Response, t.pending = s.pending ++ [r] ∧ r.ErrorDataZero := by
  constructor
  · obtain ⟨_, _, _, _, answer⟩ := runCommand_answers c s
    injection (answer s ⟨rfl, rfl, rfl⟩).symm.trans h with ht
    subst ht
    rfl
  · rcases runCommand_errorLog h with ⟨e, -, rfl⟩ | ⟨-, rfl⟩ | ⟨-, d, hp, -⟩
    · exact ⟨⟨e, 0⟩, rfl, fun _ => rfl⟩
    · exact ⟨⟨.ok, s.statusWord⟩, rfl, fun error => absurd rfl error⟩
    · exact ⟨⟨.ok, d⟩, hp, fun error => absurd rfl error⟩

theorem errorResponsesZero_kept : KeptByEveryPart fun s => s.ErrorResponsesZero where
  withEdges _ _ h := h
  responseEdge s e h := by
    have all : ∀ r ∈ (s.responseEdge e).delivered ++ (s.responseEdge e).pending, r.ErrorDataZero := by
      rw [s.responseEdge_responses]
      exact List.forall_mem_append.2 h.symm
    exact (List.forall_mem_append.1 all).symm
  driveOutputs _ _ h := h
  resetEdge s e h := ⟨fun _ none => (nomatch none), h.2⟩
  command c s t hc h := by
    obtain ⟨hd, r, hp, zero⟩ := runCommand_responses hc
    obtain ⟨pending, delivered⟩ := h
    refine ⟨?_, hd ▸ delivered⟩
    rw [hp]
    exact List.forall_mem_append.2 ⟨pending, List.forall_mem_singleton.2 zero⟩

/-- The core offers only what waits. -/
theorem State.driveOutputs_offerBacked (s : State) (e : Edge) : (s.driveOutputs e).OfferBacked := by
  intro valid
  obtain ⟨waiting, -⟩ := Bool.and_eq_true_iff.1 valid
  simpa using waiting

theorem step_offerBacked {s t : State} (hs : s.OfferBacked) (h : step s = .next t) : t.OfferBacked := by
  rcases step_next h with ⟨-, rfl⟩ | ⟨e, rest, -, ⟨-, rfl⟩ | ⟨-, -, rfl⟩ | ⟨-, -, u, -, rfl⟩⟩
  · exact hs
  · exact fun valid => nomatch valid
  · exact State.driveOutputs_offerBacked _ e
  · exact u.driveOutputs_offerBacked e

/-- Settles O36: every part of an edge keeps the first four conjuncts, and the outputs are driven at its end. -/
theorem stepKeepsTheInvariant : Obligations.StepKeepsTheInvariant := by
  unfold Obligations.StepKeepsTheInvariant
  rintro s t ⟨legal, log, unkeyed, responses, offer⟩ h
  have number : t.numSlots = s.numSlots := (numSlots_kept s.numSlots).step rfl h
  refine ⟨?_, logConsistent_kept.step log h, unkeyedSlotsZero_kept.step unkeyed h,
    errorResponsesZero_kept.step responses h, step_offerBacked offer h⟩
  rwa [State.LegalNumSlots, number]

/-- Every slot that the core has is empty after reset. -/
theorem State.resetWith_slot {n : Nat} {k : SlotNo} (h : k.toNat < n) :
    (State.resetWith n).slot k = some Slot.empty := by
  simp [State.slot, h]

/-- Settles O34: every slot is empty, and the status word is that of a core at reset. -/
theorem resetStateHasTheSpecsValues : Obligations.ResetStateHasTheSpecsValues := by
  unfold Obligations.ResetStateHasTheSpecsValues
  intro n _ hn
  exact ⟨State.resetWith_numSlots n,
    fun k hk => ⟨Slot.empty, State.resetWith_slot hk, rfl, SubkeySet.word_zero⟩,
    rfl, rfl, State.statusWord_resetWith hn, rfl, rfl⟩

/-- Settles O35: every slot is empty, the log is clear and nothing is in flight. -/
theorem resetMeetsTheInvariant : Obligations.ResetMeetsTheInvariant := by
  unfold Obligations.ResetMeetsTheInvariant
  refine ⟨fun n one sixteen => ⟨⟨?_, ?_, ?_, ?_, ?_⟩, ?_⟩, rfl⟩
  · rw [State.LegalNumSlots, State.resetWith_numSlots]
    exact ⟨one, sixteen⟩
  · exact State.logConsistent_of_clear rfl rfl
  · exact fun sl hsl _ => List.eq_of_mem_replicate hsl ▸ rfl
  · exact ⟨fun _ none => (nomatch none), fun _ none => nomatch none⟩
  · exact fun valid => nomatch valid
  · intro sl hsl keyed
    rw [List.eq_of_mem_replicate hsl] at keyed
    cases keyed

end Sys2Proof.Machine
end

section
/-! Runs (10_state.md R30, 20_memory.md R41, 70_reset_and_hazards.md R107, R108). -/

namespace Sys2Proof.Machine

theorem State.SameArchitectural.symm {s t : State} (h : s.SameArchitectural t) : t.SameArchitectural s :=
  ⟨h.slots.symm, h.lastErr.symm, h.errSticky.symm⟩

theorem State.SameArchitectural.trans {s t u : State} (h : s.SameArchitectural t) (h' : t.SameArchitectural u) :
    s.SameArchitectural u :=
  ⟨h.slots.trans h'.slots, h.lastErr.trans h'.lastErr, h.errSticky.trans h'.errSticky⟩

/-- States that agree on slots and log are left by the same commands with slots and log that agree, and with the same new
responses. -/
theorem runCommands_agree {cs : List Command} {s s' u : State} (same : s.SameArchitectural s')
    (h : runCommands cs s = .next u) :
    ∃ u' new, runCommands cs s' = .next u' ∧ u.SameArchitectural u' ∧ new.length = cs.length ∧
      u.pending = s.pending ++ new ∧ u'.pending = s'.pending ++ new := by
  obtain ⟨_, _, _, new, length, answer⟩ := runCommands_answers cs s
  injection (answer s ⟨rfl, rfl, rfl⟩).symm.trans h with hu
  subst hu
  exact ⟨_, new, answer s' same.symm, ⟨rfl, rfl, rfl⟩, length, rfl, rfl⟩

/-- From `s` to `t` the machine has done what the commands do one after another: slots and log are theirs, and all the
responses, whether delivered or in flight, are those before and theirs, in order. -/
def State.Does (s : State) (cs : List Command) (t : State) : Prop :=
  ∃ u, runCommands cs s = .next u ∧ t.SameArchitectural u ∧ t.delivered ++ t.pending = s.delivered ++ u.pending

theorem State.Does.nil (s : State) : s.Does [] s :=
  ⟨s, rfl, ⟨rfl, rfl, rfl⟩, rfl⟩

theorem State.Does.append {s t v : State} {cs ds : List Command} (h : s.Does cs t) (h' : t.Does ds v) :
    s.Does (cs ++ ds) v := by
  obtain ⟨u, run, same, responses⟩ := h
  obtain ⟨w, run', same', responses'⟩ := h'
  obtain ⟨w', new, run'', same'', -, hw, hw'⟩ := runCommands_agree same run'
  refine ⟨w', (runCommands_append run ds).trans run'', same'.trans same'', ?_⟩
  rw [responses', hw, hw', ← List.append_assoc, responses, List.append_assoc]

/-- The responses of the commands join those there were. -/
theorem State.Does.responses {s t : State} {cs : List Command} (h : s.Does cs t) :
    ∃ new, new.length = cs.length ∧ t.delivered ++ t.pending = s.delivered ++ s.pending ++ new := by
  obtain ⟨u, run, -, responses⟩ := h
  obtain ⟨-, new, -, -, length, hu, -⟩ := runCommands_agree ⟨rfl, rfl, rfl⟩ run
  exact ⟨new, length, by rw [responses, hu, List.append_assoc]⟩

theorem State.Does.responses_grow {s t : State} {cs : List Command} (h : s.Does cs t) :
    s.delivered ++ s.pending <+: t.delivered ++ t.pending := by
  obtain ⟨new, -, responses⟩ := h.responses
  exact ⟨new, responses.symm⟩

theorem State.Does.length {s t : State} {cs : List Command} (h : s.Does cs t) :
    t.delivered.length + t.pending.length = s.delivered.length + s.pending.length + cs.length := by
  obtain ⟨new, length, responses⟩ := h.responses
  simpa [length, Nat.add_assoc] using congrArg List.length responses

/-- A step without reset does the command that transfers at its edge, if one does. -/
theorem step_does {s t : State} (hr : s.NoResetFor 1) (h : step s = .next t) : s.Does s.nextTransfer t := by
  cases hs : s.edges with
  | nil =>
    obtain rfl : s = t := by injection (step_idle hs).symm.trans h
    simpa [State.nextTransfer, hs] using State.Does.nil s
  | cons e rest =>
    obtain ⟨t', u, new, ht, run, same, hu, -, hd, hp, -⟩ := step_edge hs (hr e (by simp [hs]))
    obtain rfl : t' = t := by injection ht.symm.trans h
    refine ⟨u, run, same, ?_⟩
    rw [hd, hp, hu, ← List.append_assoc, ← List.append_assoc, s.responseEdge_responses]

theorem State.NoResetFor.mono {s : State} {m n : Nat} (h : s.NoResetFor n) (hm : m ≤ n) : s.NoResetFor m :=
  fun e he => h e ((List.take_subset_take_left s.edges hm) he)

theorem State.NoResetFor.step {s t : State} {n : Nat} (h : s.NoResetFor (n + 1)) (ht : step s = .next t) :
    t.NoResetFor n := by
  obtain ⟨t', ht', hedges⟩ := step_answers s
  obtain rfl : t' = t := by injection ht'.symm.trans ht
  intro e he
  rw [hedges] at he
  cases hs : s.edges with
  | nil => simp [hs] at he
  | cons e' rest => exact h e (by simp [hs] at he ⊢; exact .inr he)

/-- A run without reset does the commands that transfer in it (10_state.md R30, 20_memory.md R41). -/
theorem State.RunsTo.does {s t : State} {n : Nat} (h : s.RunsTo n t) (hr : s.NoResetFor n) :
    s.Does (s.transfers n) t := by
  induction n generalizing s with
  | zero => exact State.runsTo_zero.1 h ▸ State.Does.nil s
  | succ n ih =>
    obtain ⟨u, hu, -⟩ := step_answers s
    rw [State.transfers_succ hu]
    exact (step_does (hr.mono (by omega)) hu).append (ih ((State.runsTo_succ hu).1 h) (hr.step hu))

/-- A run that has ended has nothing in flight. -/
theorem State.RunEnded.pending {s t : State} {n : Nat} {cmds : List Command} (h : s.RunEnded n cmds t) :
    t.pending = [] := by
  have count := (h.runs.does h.noReset).length
  rw [h.transferred, h.answered] at count
  exact List.length_eq_zero_iff.1 (by omega)

/-- Settles O46: an ended run does its commands, with nothing in flight left; and states that agree do the same. -/
theorem endedRunIsTheRunAtTransactionLevel : Obligations.EndedRunIsTheRunAtTransactionLevel := by
  unfold Obligations.EndedRunIsTheRunAtTransactionLevel
  have level : ∀ {s t : State} {n : Nat} {cmds : List Command}, s.RunEnded n cmds t →
      ∃ u, runCommands cmds s = .next u ∧ t.SameArchitectural u ∧ t.delivered = s.delivered ++ u.pending := fun h => by
    have done := h.runs.does h.noReset
    rwa [h.transferred, State.Does, h.pending, List.append_nil] at done
  refine ⟨fun s t n cmds h => ?_, fun s t s' t' n n' cmds same delivered pending h h' => ?_⟩
  · obtain ⟨u, run, sameEnd, responses⟩ := level h
    exact ⟨u, run, sameEnd, responses, h.pending⟩
  · obtain ⟨u, run, sameEnd, responses⟩ := level h
    obtain ⟨u', run', sameEnd', responses'⟩ := level h'
    obtain ⟨v, new, runs, agree, -, hu, hv⟩ := runCommands_agree same run
    obtain rfl : v = u' := by injection runs.symm.trans run'
    refine ⟨sameEnd.trans (agree.trans sameEnd'.symm), ?_, h.pending.trans h'.pending.symm⟩
    rw [responses, responses', hu, hv, delivered, pending]

end Sys2Proof.Machine
end

section
/-! Liveness (70_reset_and_hazards.md R107), and that every command sequence has a run that ends (R108). -/

namespace Sys2Proof.Machine

/-- A run that goes on is two runs one after the other. -/
theorem State.runsTo_add {s t u : State} {n m : Nat} (h : s.RunsTo n t) : s.RunsTo (n + m) u ↔ t.RunsTo m u := by
  induction n generalizing s with
  | zero => rw [State.runsTo_zero.1 h, Nat.zero_add]
  | succ n ih =>
    obtain ⟨v, hv, -⟩ := step_answers s
    rw [Nat.succ_add, State.runsTo_succ hv]
    exact ih ((State.runsTo_succ hv).1 h)

/-- The commands of a run that goes on are those of the two runs. -/
theorem State.transfers_add {s t : State} {n : Nat} (h : s.RunsTo n t) (m : Nat) :
    s.transfers (n + m) = s.transfers n ++ t.transfers m := by
  induction n generalizing s with
  | zero => rw [State.runsTo_zero.1 h, Nat.zero_add, State.transfers, List.nil_append]
  | succ n ih =>
    obtain ⟨v, hv, -⟩ := step_answers s
    rw [Nat.succ_add, State.transfers_succ hv, State.transfers_succ hv, ih ((State.runsTo_succ hv).1 h),
      List.append_assoc]

/-- No command transfers at edges at which none is offered. -/
theorem State.transfers_eq_nil {s : State} (h : ∀ e ∈ s.edges, e.cmdValid = false) (n : Nat) : s.transfers n = [] := by
  induction n generalizing s with
  | zero => rfl
  | succ n ih =>
    obtain ⟨t, ht, hedges⟩ := step_answers s
    rw [State.transfers_succ ht, ih fun e he => h e (List.mem_of_mem_tail (hedges ▸ he)), List.append_nil]
    cases hs : s.edges with
    | nil => simp [State.nextTransfer, hs]
    | cons e rest => simp [State.nextTransfer, hs, State.commandTransfers, h e (by simp [hs])]

/-- The host loses no response. -/
theorem step_delivered {s t : State} (h : step s = .next t) : s.delivered <+: t.delivered := by
  rcases step_next h with ⟨-, rfl⟩ | ⟨e, rest, -, ⟨-, rfl⟩ | ⟨-, -, rfl⟩ | ⟨-, -, u, hu, rfl⟩⟩
  · exact List.prefix_rfl
  · exact List.prefix_rfl
  · rw [State.driveOutputs_delivered, State.responseEdge_delivered]
    split <;> simp
  · rw [State.driveOutputs_delivered, (runCommand_responses hu).1, State.responseEdge_delivered]
    split <;> simp

theorem State.RunsTo.delivered {s t : State} {n : Nat} (h : s.RunsTo n t) : s.delivered <+: t.delivered := by
  induction n generalizing s with
  | zero => exact State.runsTo_zero.1 h ▸ List.prefix_rfl
  | succ n ih =>
    obtain ⟨u, hu, -⟩ := step_answers s
    exact (step_delivered hu).trans (ih ((State.runsTo_succ hu).1 h))

/-- A step does not depend on the edges that come after its own. -/
theorem step_more {s t : State} (hs : s.edges ≠ []) (h : step s = .next t) (more : List Edge) :
    step (s.withEdges (s.edges ++ more)) = .next (t.withEdges (t.edges ++ more)) := by
  obtain ⟨e, rest, hs⟩ := List.exists_cons_of_ne_nil hs
  obtain ⟨t', ht', hedges⟩ := step_answers s
  obtain rfl : t' = t := by injection ht'.symm.trans h
  have edge : clockEdge e (s.withEdges rest) = .next t' := by simpa only [step, hs] using h
  rw [hedges, hs]
  exact clockEdge_withEdges edge (rest ++ more)

theorem State.nextTransfer_more {s : State} (hs : s.edges ≠ []) (more : List Edge) :
    (s.withEdges (s.edges ++ more)).nextTransfer = s.nextTransfer := by
  obtain ⟨e, rest, hs⟩ := List.exists_cons_of_ne_nil hs
  simp [State.nextTransfer, hs]

/-- A run and its commands do not depend on the edges that come after its own. -/
theorem State.RunsTo.more {s t : State} {n : Nat} (h : s.RunsTo n t) (hn : n ≤ s.edges.length) (more : List Edge) :
    (s.withEdges (s.edges ++ more)).RunsTo n (t.withEdges (t.edges ++ more)) ∧
    (s.withEdges (s.edges ++ more)).transfers n = s.transfers n := by
  induction n generalizing s with
  | zero => exact ⟨State.runsTo_zero.2 (State.runsTo_zero.1 h ▸ rfl), rfl⟩
  | succ n ih =>
    have hs : s.edges ≠ [] := List.ne_nil_of_length_pos (by omega)
    obtain ⟨u, hu, hedges⟩ := step_answers s
    have hn : n ≤ u.edges.length := by rw [hedges, List.length_tail]; omega
    obtain ⟨run, commands⟩ := ih ((State.runsTo_succ hu).1 h) hn
    have step := step_more hs hu more
    rw [State.runsTo_succ step, State.transfers_succ step, State.transfers_succ hu, State.nextTransfer_more hs, commands]
    exact ⟨run, rfl⟩

/-- `t` is the state after the first `n` edges of an unending sequence. -/
abbrev State.After (s : State) (es : Nat → Edge) (n : Nat) (t : State) : Prop :=
  (s.fed es n).RunsTo n t

theorem State.fed_add (s : State) (es : Nat → Edge) (n m : Nat) :
    s.fed es (n + m) =
      (s.fed es n).withEdges ((s.fed es n).edges ++ (List.range m).map fun k => es (n + k)) := by
  simp [State.fed, State.withEdges, List.range_add]

theorem State.exists_after (s : State) (es : Nat → Edge) (n : Nat) : ∃ t, s.After es n t :=
  let ⟨t, run, _⟩ := run_answers n (s.fed es n)
  ⟨t, run⟩

theorem State.fed_noResetFor {es : Nat → Edge} (h : NoReset es) (s : State) (n m : Nat) :
    (s.fed es n).NoResetFor m := by
  intro e he
  obtain ⟨k, -, rfl⟩ := List.mem_map.1 (List.mem_of_mem_take he)
  exact h k

/-- After `n` edges the machine goes on with the edges from `n` on. -/
theorem State.After.runs_on {s x : State} {es : Nat → Edge} {n : Nat} (h : s.After es n x) (m : Nat) :
    (s.fed es (n + m)).RunsTo n (x.fed (fun k => es (n + k)) m) ∧
    (s.fed es (n + m)).transfers n = (s.fed es n).transfers n := by
  obtain ⟨x', run, hedges⟩ := run_answers n (s.fed es n)
  obtain rfl : x' = x := by injection run.symm.trans h
  have noEdges : x'.edges = [] := by simp [hedges]
  rw [s.fed_add es n m]
  have more := h.more (by simp) ((List.range m).map fun k => es (n + k))
  rwa [noEdges, List.nil_append] at more

theorem State.After.continues {s x y : State} {es : Nat → Edge} {n m : Nat} (h : s.After es n x)
    (h' : s.After es (n + m) y) : (x.fed (fun k => es (n + k)) m).RunsTo m y :=
  (State.runsTo_add (h.runs_on m).1).1 h'

theorem State.After.transfers {s x : State} {es : Nat → Edge} {n : Nat} (h : s.After es n x) (m : Nat) :
    (s.fed es (n + m)).transfers (n + m) =
      (s.fed es n).transfers n ++ (x.fed (fun k => es (n + k)) m).transfers m := by
  obtain ⟨run, commands⟩ := h.runs_on m
  rw [State.transfers_add run, commands]

/-- What one more edge without reset does with the response channel. -/
theorem State.After.next {s x y : State} {es : Nat → Edge} {n : Nat} (hr : NoReset es) (h : s.After es n x)
    (h' : s.After es (n + 1) y) :
    y.delivered = (x.responseEdge (es n)).delivered ∧ y.rspValid = (!y.pending.isEmpty && (es n).rspOffer) := by
  obtain ⟨t, -, -, ht, -, -, -, -, hd, -, -, -, valid⟩ :=
    step_edge (s := x.fed (fun k => es (n + k)) 1) (e := es n) (rest := []) rfl (hr n)
  obtain rfl : t = y := State.runsTo_zero.1 ((State.runsTo_succ ht).1 (h.continues h'))
  refine ⟨hd.trans ?_, valid⟩
  simp only [State.responseEdge_delivered]
  rfl

/-- The responses that are delivered or in flight stay so, in order. -/
theorem State.After.responses_grow {s x y : State} {es : Nat → Edge} {n m : Nat} (hr : NoReset es)
    (h : s.After es n x) (h' : s.After es (n + m) y) : x.delivered ++ x.pending <+: y.delivered ++ y.pending :=
  ((h.continues h').does (x.fed_noResetFor (fun k => hr (n + k)) m m)).responses_grow

/-- Under fairness, again and again the core offers at an edge and the host takes at the next: the last edge before the
host's next `rsp_ready` is one at which a core that waits for it offers. -/
theorem Fair.offer_then_take {es : Nat → Edge} (hf : Fair es) (n : Nat) :
    ∃ k, n ≤ k ∧ (es k).rspOffer = true ∧ (es (k + 1)).rspReady = true := by
  obtain ⟨m, hnm, offers⟩ := hf.coreOffers n
  have taken := hf.hostTakes (m + 1)
  obtain ⟨after, ready⟩ := Nat.find_spec taken
  obtain ⟨k, hk⟩ := Nat.exists_eq_add_of_le' (Nat.le_of_add_left_le after)
  refine ⟨k, by omega, offers k (by omega) fun j hj hjk => ?_, hk ▸ ready⟩
  have early := Nat.find_min taken (m := j) (by omega)
  simpa [Nat.succ_le_of_lt hj] using early

/-- Under fairness a response that waits is delivered. -/
theorem State.After.delivered_grows {s x : State} {es : Nat → Edge} {n : Nat} (hf : Fair es) (h : s.After es n x)
    (waiting : x.pending ≠ []) :
    ∃ m y, s.After es (n + m) y ∧ x.delivered.length < y.delivered.length := by
  obtain ⟨k, hk, offer, take⟩ := hf.offer_then_take n
  obtain ⟨d, rfl⟩ := Nat.exists_eq_add_of_le hk
  obtain ⟨w, hw⟩ := s.exists_after es (n + d)
  obtain ⟨y, hy⟩ := s.exists_after es (n + d + 1)
  obtain ⟨z, hz⟩ := s.exists_after es (n + d + 1 + 1)
  have delivered : x.delivered.length ≤ y.delivered.length := (h.continues (m := d + 1) hy).delivered.length_le
  by_cases none : y.pending = []
  · refine ⟨d + 1, y, hy, ?_⟩
    have grow := (h.responses_grow hf.noReset (m := d + 1) hy).length_le
    have some : 0 < x.pending.length := List.length_pos_iff.2 waiting
    simp only [List.length_append, none, List.length_nil] at grow
    omega
  · refine ⟨d + 2, z, hz, ?_⟩
    have valid : y.rspValid = true := by simp [(hw.next hf.noReset hy).2, none, offer]
    have transfers : y.responseTransfers (es (n + d + 1)) = true := by simp [State.responseTransfers, valid, take]
    have some : 0 < y.pending.length := List.length_pos_iff.2 none
    have gain : z.delivered.length = y.delivered.length + 1 := by
      rw [(hy.next hf.noReset hz).1, State.responseEdge_delivered, if_pos transfers]
      rw [List.length_append, List.length_take]
      omega
    omega

/-- Under fairness every response delivered or in flight is delivered after finitely many edges. -/
theorem State.After.eventually_delivered {s x : State} {es : Nat → Edge} {n : Nat} (hf : Fair es)
    (h : s.After es n x) : ∃ m y, s.After es (n + m) y ∧ x.delivered ++ x.pending <+: y.delivered := by
  have count : ∀ c, c ≤ (x.delivered ++ x.pending).length →
      ∃ m y, s.After es (n + m) y ∧ c ≤ y.delivered.length := by
    intro c
    induction c with
    | zero => exact fun _ => ⟨0, x, h, Nat.zero_le _⟩
    | succ c ih =>
      intro hc
      obtain ⟨m, y, hy, delivered⟩ := ih (by omega)
      by_cases none : y.pending = []
      · have grow := (h.responses_grow hf.noReset hy).length_le
        rw [none, List.append_nil] at grow
        exact ⟨m, y, hy, hc.trans grow⟩
      · obtain ⟨d, z, hz, more⟩ := hy.delivered_grows hf none
        exact ⟨m + d, z, Nat.add_assoc n m d ▸ hz, by omega⟩
  obtain ⟨m, y, hy, delivered⟩ := count _ (Nat.le_refl _)
  exact ⟨m, y, hy,
    List.prefix_of_prefix_length_le (h.responses_grow hf.noReset hy) (List.prefix_append _ _) delivered⟩

/-- Settles O47: what waits is delivered, and with no command after, all that waits is that of the commands before. -/
theorem everyTransferredCommandIsAnswered : Obligations.EveryTransferredCommandIsAnswered := by
  unfold Obligations.EveryTransferredCommandIsAnswered
  rintro s t es n hf (h : s.After es n t)
  obtain ⟨m, u, hu, delivered⟩ := h.eventually_delivered hf
  refine ⟨⟨n + m, u, by omega, hu, delivered⟩, fun quiet => ?_⟩
  have commands : (s.fed es (n + m)).transfers (n + m) = (s.fed es n).transfers n := by
    refine (h.transfers m).trans ((congrArg _ (State.transfers_eq_nil (fun e he => ?_) m)).trans (List.append_nil _))
    obtain ⟨k, -, rfl⟩ := List.mem_map.1 he
    exact quiet (n + k) (by omega)
  refine ⟨n + m, u, by omega, hu, s.fed_noResetFor hf.noReset _ _, commands, ?_⟩
  have before := (State.RunsTo.does h (s.fed_noResetFor hf.noReset n n)).length
  have after := (State.RunsTo.does hu (s.fed_noResetFor hf.noReset (n + m) (n + m))).length
  have all := delivered.length_le
  rw [commands] at after
  simp only [List.length_append, State.fed_delivered, State.fed_pending] at all before after ⊢
  omega

/-- An edge at which the host offers a command, if it has one, and takes a response, and the core offers what waits and is
ready for a command. -/
def offerEdge (c : Option Command) : Edge where
  rstN := true
  cmdValid := c.isSome
  command := c.getD ⟨0, 0⟩
  rspReady := true
  cmdReadyNext := true
  rspOffer := true

/-- The edges at which the commands are offered one after another, after a first edge that makes the core ready, and none
after them. -/
def offerEdges (cmds : List Command) : Nat → Edge
  | 0 => offerEdge none
  | k + 1 => offerEdge cmds[k]?

theorem offerEdges_eq (cmds : List Command) (n : Nat) : ∃ c, offerEdges cmds n = offerEdge c := by
  cases n with
  | zero => exact ⟨none, rfl⟩
  | succ k => exact ⟨cmds[k]?, rfl⟩

theorem offerEdges_fair (cmds : List Command) : Fair (offerEdges cmds) where
  noReset n := by
    obtain ⟨c, hc⟩ := offerEdges_eq cmds n
    rw [hc, offerEdge]
  hostTakes n := by
    obtain ⟨c, hc⟩ := offerEdges_eq cmds n
    exact ⟨n, Nat.le_refl n, by rw [hc, offerEdge]⟩
  coreOffers n := by
    refine ⟨n, Nat.le_refl n, fun k _ _ => ?_⟩
    obtain ⟨c, hc⟩ := offerEdges_eq cmds k
    rw [hc, offerEdge]

/-- The first edges are the one that makes the core ready and one for each command. -/
theorem fed_offerEdges (s : State) (cmds : List Command) :
    (s.fed (offerEdges cmds) (cmds.length + 1)).edges = offerEdge none :: cmds.map fun c => offerEdge (some c) := by
  rw [State.fed_edges, List.range_succ_eq_map, List.map_cons, List.map_map]
  refine congrArg (offerEdges cmds 0 :: ·) (List.ext_getElem (by simp) fun k hk hk' => ?_)
  have below : k < cmds.length := by simpa using hk
  simp [offerEdges, below]

/-- What an `offerEdge` does: the command offered transfers if the core is ready, and the core is ready after it. -/
theorem step_offerEdge {s : State} {c : Option Command} {rest : List Edge} (hs : s.edges = offerEdge c :: rest) :
    ∃ t, step s = .next t ∧ t.edges = rest ∧ t.cmdReady = true ∧
      s.nextTransfer = if s.cmdReady = true then c.toList else [] := by
  obtain ⟨t, -, -, ht, -, -, -, -, -, -, hedges, ready, -⟩ := step_edge hs rfl
  refine ⟨t, ht, hedges, ready, ?_⟩
  rw [State.nextTransfer_eq hs rfl]
  cases c <;> simp [offerEdge]

/-- A core that is ready takes a command at each edge at which it is offered one. -/
theorem transfers_offerEdges {s : State} {cmds : List Command} (ready : s.cmdReady = true)
    (hs : s.edges = cmds.map fun c => offerEdge (some c)) : s.transfers cmds.length = cmds := by
  induction cmds generalizing s with
  | nil => rfl
  | cons c cmds ih =>
    obtain ⟨t, ht, hedges, ready', transfer⟩ := step_offerEdge hs
    rw [List.length_cons, State.transfers_succ ht, transfer, if_pos ready, ih ready' hedges]
    rfl

/-- Settles O48: the edges at which the host offers the commands one after another, and then none, are fair, so their run
ends. -/
theorem everyCommandSequenceHasARunThatEnds : Obligations.EveryCommandSequenceHasARunThatEnds := by
  unfold Obligations.EveryCommandSequenceHasARunThatEnds
  intro s cmds
  obtain ⟨t, ht⟩ := s.exists_after (offerEdges cmds) (cmds.length + 1)
  obtain ⟨m, u, -, ended⟩ := (everyTransferredCommandIsAnswered s t _ _ (offerEdges_fair cmds) ht).2 fun k hk => by
    obtain ⟨j, rfl⟩ := Nat.exists_eq_add_of_le' (Nat.le_of_add_left_le hk)
    have beyond : cmds.length ≤ j := by omega
    simp [offerEdges, offerEdge, beyond]
  have commands : (s.fed (offerEdges cmds) (cmds.length + 1)).transfers (cmds.length + 1) = cmds := by
    obtain ⟨v, hv, hedges, ready, first⟩ := step_offerEdge (fed_offerEdges s cmds)
    rw [State.transfers_succ hv, transfers_offerEdges ready hedges, first, Option.toList_none, ite_self,
      List.nil_append]
  rw [commands] at ended
  refine ⟨(List.range m).map (offerEdges cmds), u, ?_⟩
  rwa [List.length_map, List.length_range]

end Sys2Proof.Machine
end
